-- ==== Sys2Proof/Word.lean ====
section
/-! DEFINITION. The word of vm1 CORE and the index of a general register (00_scope.md R7 to R9, 10_state.md R21). -/

namespace Sys2Proof

/-- "Word: a 32-bit unsigned value; the unit of memory and of one instruction" (R7, R9). -/
abbrev Word := BitVec 32

/-- The number of a general register, 0 to 31 (R21, R62).
No instruction field can carry 32, the slot of the pc (R26). -/
abbrev RegIdx := Fin 32

/-- A word has the fixed bits of a row of the opcode table. -/
def Word.fits (mask mtch w : Word) : Bool := w &&& mask == mtch

end Sys2Proof
end

