-- ==== Sys2Proof/Syntax.lean ====
section
/-! DEFINITION. The instructions of vm1 CORE: one constructor per row of spec/opcode_table.json.
Registers are numbers 0 to 31 and immediates are the raw 12 or 20 field bits, so that a legal operand set (30_encoding.md R66)
is what the types admit. A row that is no instruction of R96 (an unmapped funct, R97, or an illegal opcode, R72) carries the
whole fetched word, which IllegalOpcode(w) records. -/

namespace Sys2Proof

inductive Instr where
  /-- `hlt`: stop the machine (R120). -/
  | hlt
  /-- `put xV xB xO`: store x[value] at x[base] + x[offset] (R125). -/
  | put (value base offset : RegIdx)
  /-- `get xV xB xO`: load x[value] from x[base] + x[offset] (R126). -/
  | get (value base offset : RegIdx)
  /-- `addi xD xS imm12` (R130). -/
  | addi (rd rs1 : RegIdx) (imm : BitVec 12)
  /-- `slti xD xS imm12` (R131). -/
  | slti (rd rs1 : RegIdx) (imm : BitVec 12)
  /-- `add xD xS xT` (R140). -/
  | add (rd rs1 rs2 : RegIdx)
  /-- `mlt xD xS xT` (R141). -/
  | mlt (rd rs1 rs2 : RegIdx)
  /-- `bne xS xT imm12` (R150). -/
  | bne (rs1 rs2 : RegIdx) (imm : BitVec 12)
  /-- `jal xD imm20` (R155). -/
  | jal (rd : RegIdx) (imm : BitVec 20)
  /-- `lui xD imm20` (R160). -/
  | lui (rd : RegIdx) (imm : BitVec 20)
  /-- `lw xD xB imm12` (R165). -/
  | lw (rd rs1 : RegIdx) (imm : BitVec 12)
  /-- `sw xB imm12 xV`: rs1 is the base, rs2 the value (R166). -/
  | sw (rs1 rs2 : RegIdx) (imm : BitVec 12)
  -- Unmapped funct values under the opcode IMM (3) (R73, R97).
  | unmappedImmF1 (w : Word)
  | unmappedImmF3 (w : Word)
  | unmappedImmF4 (w : Word)
  | unmappedImmF5 (w : Word)
  | unmappedImmF6 (w : Word)
  | unmappedImmF7 (w : Word)
  -- Unmapped funct values under the opcode OP (4) (R73, R97).
  | unmappedOpF1 (w : Word)
  | unmappedOpF2 (w : Word)
  | unmappedOpF3 (w : Word)
  | unmappedOpF4 (w : Word)
  | unmappedOpF5 (w : Word)
  | unmappedOpF6 (w : Word)
  | unmappedOpF7 (w : Word)
  -- Unmapped funct values under the opcode BRANCH (6) (R73, R97).
  | unmappedBranchF0 (w : Word)
  | unmappedBranchF2 (w : Word)
  | unmappedBranchF3 (w : Word)
  | unmappedBranchF4 (w : Word)
  | unmappedBranchF5 (w : Word)
  | unmappedBranchF6 (w : Word)
  | unmappedBranchF7 (w : Word)
  -- Words with no bound opcode: the sentinel 11 and the unassigned 12 to 127 (R69, R72).
  | illegalOp11 (w : Word)
  | illegalOp12to15 (w : Word)
  | illegalOp16to31 (w : Word)
  | illegalOp32to63 (w : Word)
  | illegalOp64to127 (w : Word)
  deriving DecidableEq, Repr

end Sys2Proof
end

