-- ==== Sys2Proof/WellFormed.lean ====
section
/-! DEFINITION. Which terms of Instr the decoder can give (30_encoding.md R66, R71).
Register numbers and immediates are legal by their types; a word that a term carries whole must be a word of that term's own
row of spec/opcode_table.json, by the row's mask and match. -/

namespace Sys2Proof

def Instr.wellFormed : Instr → Bool
  | .hlt => true
  | .put _ _ _ => true
  | .get _ _ _ => true
  | .addi _ _ _ => true
  | .slti _ _ _ => true
  | .add _ _ _ => true
  | .mlt _ _ _ => true
  | .bne _ _ _ => true
  | .jal _ _ => true
  | .lui _ _ => true
  | .lw _ _ _ => true
  | .sw _ _ _ => true
  | .unmappedImmF1 w => Word.fits 0x0000707f 0x00001003 w
  | .unmappedImmF3 w => Word.fits 0x0000707f 0x00003003 w
  | .unmappedImmF4 w => Word.fits 0x0000707f 0x00004003 w
  | .unmappedImmF5 w => Word.fits 0x0000707f 0x00005003 w
  | .unmappedImmF6 w => Word.fits 0x0000707f 0x00006003 w
  | .unmappedImmF7 w => Word.fits 0x0000707f 0x00007003 w
  | .unmappedOpF1 w => Word.fits 0x0000707f 0x00001004 w
  | .unmappedOpF2 w => Word.fits 0x0000707f 0x00002004 w
  | .unmappedOpF3 w => Word.fits 0x0000707f 0x00003004 w
  | .unmappedOpF4 w => Word.fits 0x0000707f 0x00004004 w
  | .unmappedOpF5 w => Word.fits 0x0000707f 0x00005004 w
  | .unmappedOpF6 w => Word.fits 0x0000707f 0x00006004 w
  | .unmappedOpF7 w => Word.fits 0x0000707f 0x00007004 w
  | .unmappedBranchF0 w => Word.fits 0x0000707f 0x00000006 w
  | .unmappedBranchF2 w => Word.fits 0x0000707f 0x00002006 w
  | .unmappedBranchF3 w => Word.fits 0x0000707f 0x00003006 w
  | .unmappedBranchF4 w => Word.fits 0x0000707f 0x00004006 w
  | .unmappedBranchF5 w => Word.fits 0x0000707f 0x00005006 w
  | .unmappedBranchF6 w => Word.fits 0x0000707f 0x00006006 w
  | .unmappedBranchF7 w => Word.fits 0x0000707f 0x00007006 w
  | .illegalOp11 w => Word.fits 0x0000007f 0x0000000b w
  | .illegalOp12to15 w => Word.fits 0x0000007c 0x0000000c w
  | .illegalOp16to31 w => Word.fits 0x00000070 0x00000010 w
  | .illegalOp32to63 w => Word.fits 0x00000060 0x00000020 w
  | .illegalOp64to127 w => Word.fits 0x00000040 0x00000040 w

/-- The same as a proposition. -/
abbrev Instr.WellFormed (i : Instr) : Prop := i.wellFormed = true

end Sys2Proof
end

