-- ==== Sys2Proof/Decode.lean ====
section
/-! DEFINITION. Words to instructions and back (30_encoding.md R60 to R75).
The decoder is total on all 2^32 words (R71); the encoder writes the five shapes of R64 with every ignored bit 0 (R65).
Bit positions and opcode numbers are decisions D1 to D7 and D31 of 92_eei_decisions.md (log entry 6). -/

namespace Sys2Proof

/-! ## Fields (R61 to R64, R67, R68, R100) -/

/-- The opcode, `w[6:0]` (R61). -/
def opcodeField (w : Word) : BitVec 7 := w.extractLsb' 0 7

/-- Register field c, `w[11:7]` (R62). -/
def fieldC (w : Word) : RegIdx := (w.extractLsb' 7 5).toFin

/-- The funct selector, `w[14:12]` (R63). -/
def functField (w : Word) : BitVec 3 := w.extractLsb' 12 3

/-- Register field a, `w[19:15]` (R62). -/
def fieldA (w : Word) : RegIdx := (w.extractLsb' 15 5).toFin

/-- Register field b, `w[24:20]` (R62). -/
def fieldB (w : Word) : RegIdx := (w.extractLsb' 20 5).toFin

/-- The bits of imm12, `w[31:20]` (R67). -/
def imm12Field (w : Word) : BitVec 12 := w.extractLsb' 20 12

/-- The bits of imm20, `w[31:12]` (R68). -/
def imm20Field (w : Word) : BitVec 20 := w.extractLsb' 12 20

/-! ## Opcodes (R69) -/

/-- The bound opcodes, in the order of R69. -/
inductive Opcode where
  | hlt | put | get | imm | op | mlt | branch | jal | lui | load | store
  deriving DecidableEq, Repr

/-- The number of an opcode (R69). -/
def Opcode.bits : Opcode → BitVec 7
  | .hlt => 0 | .put => 1 | .get => 2 | .imm => 3 | .op => 4 | .mlt => 5
  | .branch => 6 | .jal => 7 | .lui => 8 | .load => 9 | .store => 10

/-- The opcode bound to a number; none for the sentinel 11 and for 12 to 127 (R69, R72). -/
def Opcode.ofBits (b : BitVec 7) : Option Opcode :=
  match b.toNat with
  | 0 => some .hlt | 1 => some .put | 2 => some .get | 3 => some .imm | 4 => some .op | 5 => some .mlt
  | 6 => some .branch | 7 => some .jal | 8 => some .lui | 9 => some .load | 10 => some .store
  | _ => none

/-! ## The decoder (R71) -/

/-- The handler of IMM: `addi` under funct 0, `slti` under 2, every other funct unmapped (R71, R73, R132). -/
def decodeImm (w : Word) : Instr :=
  match (functField w).toNat with
  | 0 => .addi (fieldC w) (fieldA w) (imm12Field w)
  | 1 => .unmappedImmF1 w
  | 2 => .slti (fieldC w) (fieldA w) (imm12Field w)
  | 3 => .unmappedImmF3 w
  | 4 => .unmappedImmF4 w
  | 5 => .unmappedImmF5 w
  | 6 => .unmappedImmF6 w
  | _ => .unmappedImmF7 w

/-- The handler of OP: `add` under funct 0, every other funct unmapped (R71, R73, R142). -/
def decodeOp (w : Word) : Instr :=
  match (functField w).toNat with
  | 0 => .add (fieldC w) (fieldA w) (fieldB w)
  | 1 => .unmappedOpF1 w
  | 2 => .unmappedOpF2 w
  | 3 => .unmappedOpF3 w
  | 4 => .unmappedOpF4 w
  | 5 => .unmappedOpF5 w
  | 6 => .unmappedOpF6 w
  | _ => .unmappedOpF7 w

/-- The handler of BRANCH: `bne` under funct 1, every other funct unmapped (R71, R73, R151; conflict C6). -/
def decodeBranch (w : Word) : Instr :=
  match (functField w).toNat with
  | 0 => .unmappedBranchF0 w
  | 1 => .bne (fieldA w) (fieldC w) (imm12Field w)
  | 2 => .unmappedBranchF2 w
  | 3 => .unmappedBranchF3 w
  | 4 => .unmappedBranchF4 w
  | 5 => .unmappedBranchF5 w
  | 6 => .unmappedBranchF6 w
  | _ => .unmappedBranchF7 w

/-- A word with no bound opcode (R72): ILLEGAL(w), told apart by the rows of the opcode table. -/
def decodeIllegal (w : Word) : Instr :=
  let n := (opcodeField w).toNat
  if n ≤ 11 then .illegalOp11 w
  else if n ≤ 15 then .illegalOp12to15 w
  else if n ≤ 31 then .illegalOp16to31 w
  else if n ≤ 63 then .illegalOp32to63 w
  else .illegalOp64to127 w

/-- Decode(w) of R71. -/
def decode (w : Word) : Instr :=
  match Opcode.ofBits (opcodeField w) with
  | some .hlt => .hlt
  | some .put => .put (fieldC w) (fieldA w) (fieldB w)
  | some .get => .get (fieldC w) (fieldA w) (fieldB w)
  | some .imm => decodeImm w
  | some .op => decodeOp w
  | some .mlt => .mlt (fieldC w) (fieldA w) (fieldB w)
  | some .branch => decodeBranch w
  | some .jal => .jal (fieldC w) (imm20Field w)
  | some .lui => .lui (fieldC w) (imm20Field w)
  | some .load => .lw (fieldC w) (fieldA w) (imm12Field w)
  | some .store => .sw (fieldA w) (fieldC w) (imm12Field w)
  | none => decodeIllegal w

/-- The host's question: the decoder's reading of the word whose low `nbits` bits are `w`, every bit above them 0.
An instruction is one word (R60), so a longer one is none. -/
def decodeTableWord (nbits w : Nat) : Option Instr :=
  if nbits ≤ 32 then some (decode (BitVec.ofNat 32 (w % 2 ^ nbits))) else none

/-! ## The encoder (R64, R65, R67, R68; the formulas at the head of 95_test_vectors.md) -/

/-- The 5 bits of a register field (R62). -/
def regBits (r : RegIdx) : BitVec 5 := BitVec.ofFin r

/-- R shape: `0000000 bbbbb aaaaa fff ccccc ooooooo`. -/
def encodeR (o : Opcode) (funct : BitVec 3) (rd rs1 rs2 : RegIdx) : Word :=
  0#7 ++ regBits rs2 ++ regBits rs1 ++ funct ++ regBits rd ++ o.bits

/-- I shape: `iiiiiiiiiiii aaaaa fff ccccc ooooooo`. -/
def encodeI (o : Opcode) (funct : BitVec 3) (rd rs1 : RegIdx) (imm : BitVec 12) : Word :=
  imm ++ regBits rs1 ++ funct ++ regBits rd ++ o.bits

/-- S/B shape: the I shape with rs2 at `w[11:7]`. -/
def encodeSB (o : Opcode) (funct : BitVec 3) (rs1 rs2 : RegIdx) (imm : BitVec 12) : Word :=
  imm ++ regBits rs1 ++ funct ++ regBits rs2 ++ o.bits

/-- U/J shape: `iiiiiiiiiiiiiiiiiiii ccccc ooooooo`. -/
def encodeUJ (o : Opcode) (rd : RegIdx) (imm : BitVec 20) : Word :=
  imm ++ regBits rd ++ o.bits

/-- L shape: `0000000 bbbbb aaaaa 000 ccccc ooooooo`. -/
def encodeL (o : Opcode) (value base offset : RegIdx) : Word :=
  0#7 ++ regBits offset ++ regBits base ++ 0#3 ++ regBits value ++ o.bits

/-- The canonical word of an instruction (R65); a word that the term carries whole is itself. -/
def encode : Instr → Word
  | .hlt => 0
  | .put value base offset => encodeL .put value base offset
  | .get value base offset => encodeL .get value base offset
  | .addi rd rs1 imm => encodeI .imm 0 rd rs1 imm
  | .slti rd rs1 imm => encodeI .imm 2 rd rs1 imm
  | .add rd rs1 rs2 => encodeR .op 0 rd rs1 rs2
  | .mlt rd rs1 rs2 => encodeR .mlt 0 rd rs1 rs2
  | .bne rs1 rs2 imm => encodeSB .branch 1 rs1 rs2 imm
  | .jal rd imm => encodeUJ .jal rd imm
  | .lui rd imm => encodeUJ .lui rd imm
  | .lw rd rs1 imm => encodeI .load 0 rd rs1 imm
  | .sw rs1 rs2 imm => encodeSB .store 0 rs1 rs2 imm
  | .unmappedImmF1 w => w
  | .unmappedImmF3 w => w
  | .unmappedImmF4 w => w
  | .unmappedImmF5 w => w
  | .unmappedImmF6 w => w
  | .unmappedImmF7 w => w
  | .unmappedOpF1 w => w
  | .unmappedOpF2 w => w
  | .unmappedOpF3 w => w
  | .unmappedOpF4 w => w
  | .unmappedOpF5 w => w
  | .unmappedOpF6 w => w
  | .unmappedOpF7 w => w
  | .unmappedBranchF0 w => w
  | .unmappedBranchF2 w => w
  | .unmappedBranchF3 w => w
  | .unmappedBranchF4 w => w
  | .unmappedBranchF5 w => w
  | .unmappedBranchF6 w => w
  | .unmappedBranchF7 w => w
  | .illegalOp11 w => w
  | .illegalOp12to15 w => w
  | .illegalOp16to31 w => w
  | .illegalOp32to63 w => w
  | .illegalOp64to127 w => w

/-- The encoder's preconditions (R66, 60_exceptions.md R192): an opcode of 0 to 10, and for a term that carries its word whole, a
word of the term's own row.
Registers, immediates and funct are in range by their types. -/
def Instr.encodable (i : Instr) : Bool := i.wellFormed && (Opcode.ofBits (opcodeField (encode i))).isSome

/-- The encoder that refuses a term that breaks a precondition: an opcode at or beyond the sentinel gives no word
(R66, 93_implementation_defined.md U9). -/
def encodeChecked (i : Instr) : Option Word := if i.encodable then some (encode i) else none

/-! ## The opcode table (spec/opcode_table.json) -/

/-- A row: its mnemonic, and the fixed bits that make a word one of it. -/
structure OpcodeRow where
  mnemonic : String
  mtch : Word
  mask : Word
  deriving DecidableEq, Repr

/-- The twelve instructions (R96). -/
def opcodeRowsMapped : List OpcodeRow :=
  [ ⟨"hlt", 0x00000000, 0x0000007f⟩,
    ⟨"put", 0x00000001, 0x0000007f⟩,
    ⟨"get", 0x00000002, 0x0000007f⟩,
    ⟨"addi", 0x00000003, 0x0000707f⟩,
    ⟨"slti", 0x00002003, 0x0000707f⟩,
    ⟨"add", 0x00000004, 0x0000707f⟩,
    ⟨"mlt", 0x00000005, 0x0000007f⟩,
    ⟨"bne", 0x00001006, 0x0000707f⟩,
    ⟨"jal", 0x00000007, 0x0000007f⟩,
    ⟨"lui", 0x00000008, 0x0000007f⟩,
    ⟨"lw", 0x00000009, 0x0000007f⟩,
    ⟨"sw", 0x0000000a, 0x0000007f⟩ ]

/-- Unmapped funct under IMM. -/
def opcodeRowsUnmappedImm : List OpcodeRow :=
  [ ⟨"unmapped.imm.f1", 0x00001003, 0x0000707f⟩,
    ⟨"unmapped.imm.f3", 0x00003003, 0x0000707f⟩,
    ⟨"unmapped.imm.f4", 0x00004003, 0x0000707f⟩,
    ⟨"unmapped.imm.f5", 0x00005003, 0x0000707f⟩,
    ⟨"unmapped.imm.f6", 0x00006003, 0x0000707f⟩,
    ⟨"unmapped.imm.f7", 0x00007003, 0x0000707f⟩ ]

/-- Unmapped funct under OP. -/
def opcodeRowsUnmappedOp : List OpcodeRow :=
  [ ⟨"unmapped.op.f1", 0x00001004, 0x0000707f⟩,
    ⟨"unmapped.op.f2", 0x00002004, 0x0000707f⟩,
    ⟨"unmapped.op.f3", 0x00003004, 0x0000707f⟩,
    ⟨"unmapped.op.f4", 0x00004004, 0x0000707f⟩,
    ⟨"unmapped.op.f5", 0x00005004, 0x0000707f⟩,
    ⟨"unmapped.op.f6", 0x00006004, 0x0000707f⟩,
    ⟨"unmapped.op.f7", 0x00007004, 0x0000707f⟩ ]

/-- Unmapped funct under BRANCH. -/
def opcodeRowsUnmappedBranch : List OpcodeRow :=
  [ ⟨"unmapped.branch.f0", 0x00000006, 0x0000707f⟩,
    ⟨"unmapped.branch.f2", 0x00002006, 0x0000707f⟩,
    ⟨"unmapped.branch.f3", 0x00003006, 0x0000707f⟩,
    ⟨"unmapped.branch.f4", 0x00004006, 0x0000707f⟩,
    ⟨"unmapped.branch.f5", 0x00005006, 0x0000707f⟩,
    ⟨"unmapped.branch.f6", 0x00006006, 0x0000707f⟩,
    ⟨"unmapped.branch.f7", 0x00007006, 0x0000707f⟩ ]

/-- The opcodes bound to nothing (R72). -/
def opcodeRowsIllegal : List OpcodeRow :=
  [ ⟨"illegal.op11", 0x0000000b, 0x0000007f⟩,
    ⟨"illegal.op12_15", 0x0000000c, 0x0000007c⟩,
    ⟨"illegal.op16_31", 0x00000010, 0x00000070⟩,
    ⟨"illegal.op32_63", 0x00000020, 0x00000060⟩,
    ⟨"illegal.op64_127", 0x00000040, 0x00000040⟩ ]

/-- All 37 rows, in the table's order. -/
def opcodeTable : List OpcodeRow :=
  opcodeRowsMapped ++ opcodeRowsUnmappedImm ++ opcodeRowsUnmappedOp ++ opcodeRowsUnmappedBranch ++ opcodeRowsIllegal

/-- The mnemonic of an instruction's row. -/
def Instr.mnemonic : Instr → String
  | .hlt => "hlt"
  | .put _ _ _ => "put"
  | .get _ _ _ => "get"
  | .addi _ _ _ => "addi"
  | .slti _ _ _ => "slti"
  | .add _ _ _ => "add"
  | .mlt _ _ _ => "mlt"
  | .bne _ _ _ => "bne"
  | .jal _ _ => "jal"
  | .lui _ _ => "lui"
  | .lw _ _ _ => "lw"
  | .sw _ _ _ => "sw"
  | .unmappedImmF1 _ => "unmapped.imm.f1"
  | .unmappedImmF3 _ => "unmapped.imm.f3"
  | .unmappedImmF4 _ => "unmapped.imm.f4"
  | .unmappedImmF5 _ => "unmapped.imm.f5"
  | .unmappedImmF6 _ => "unmapped.imm.f6"
  | .unmappedImmF7 _ => "unmapped.imm.f7"
  | .unmappedOpF1 _ => "unmapped.op.f1"
  | .unmappedOpF2 _ => "unmapped.op.f2"
  | .unmappedOpF3 _ => "unmapped.op.f3"
  | .unmappedOpF4 _ => "unmapped.op.f4"
  | .unmappedOpF5 _ => "unmapped.op.f5"
  | .unmappedOpF6 _ => "unmapped.op.f6"
  | .unmappedOpF7 _ => "unmapped.op.f7"
  | .unmappedBranchF0 _ => "unmapped.branch.f0"
  | .unmappedBranchF2 _ => "unmapped.branch.f2"
  | .unmappedBranchF3 _ => "unmapped.branch.f3"
  | .unmappedBranchF4 _ => "unmapped.branch.f4"
  | .unmappedBranchF5 _ => "unmapped.branch.f5"
  | .unmappedBranchF6 _ => "unmapped.branch.f6"
  | .unmappedBranchF7 _ => "unmapped.branch.f7"
  | .illegalOp11 _ => "illegal.op11"
  | .illegalOp12to15 _ => "illegal.op12_15"
  | .illegalOp16to31 _ => "illegal.op16_31"
  | .illegalOp32to63 _ => "illegal.op32_63"
  | .illegalOp64to127 _ => "illegal.op64_127"

end Sys2Proof
end

