-- ==== Sys2Proof/Machine/Flags.lean ====
section
/-! DEFINITION. "There are no status flags, condition codes or predicates" (10_state.md R28).
What a flag would hold elsewhere is here the 32-bit result of a comparison (40_step_and_units.md R102). -/

namespace Sys2Proof.Machine

/-- SLT: 1 if signed(p) < signed(q), else 0 (R102, R131). -/
def sltValue (p q : Word) : Word := if p.toInt < q.toInt then 1 else 0

/-- NE: 1 if any of the 32 bits differ, else 0 (R102, R150). -/
def neValue (p q : Word) : Word := if p = q then 0 else 1

end Sys2Proof.Machine
end

