-- ==== Sys2Proof/Config.lean ====
section
/-! DEFINITION. The parameters of a machine, "fixed for the life of a machine, not state" (10_state.md R34, 00_scope.md R7).
A machine carries them beside its state (State.params), so that every claim over all states is a claim over all parameters. -/

namespace Sys2Proof

/-- UNMAPPED_FUNCT_POLICY (R7, R73): what an unmapped funct under IMM, OP or BRANCH does. -/
inductive UnmappedPolicy where
  /-- The reference behaviour and the default: a no-op. -/
  | nop
  /-- The step raises IllegalOpcode(w). -/
  | fault
  deriving DecidableEq, Repr

/-- The three parameters that R7 and R34 leave to the machine. -/
structure Params where
  /-- MEM_WORDS, the memory's capacity in words. -/
  memWords : Nat
  /-- UNMAPPED_FUNCT_POLICY. -/
  unmappedPolicy : UnmappedPolicy
  /-- LINK_INC, what `jal` adds to the pc to make the link value. -/
  linkInc : Word
  deriving DecidableEq, Repr

/-- "1 <= MEM_WORDS <= 2^30" (R7). -/
abbrev Params.wf (p : Params) : Prop := 1 ≤ p.memWords ∧ p.memWords ≤ 2 ^ 30

end Sys2Proof
end

