-- ==== Sys2Proof/Machine/ResetParams.lean ====
section
/-! DEFINITION. The parameters of the machine that State.reset creates.
No statement rests on them: every statement quantifies over the parameters a state carries. -/

namespace Sys2Proof.Machine

/-- UNMAPPED_FUNCT_POLICY = NOP and LINK_INC = 1 are the spec's defaults (R7, D9, D18; log entry 3).
MEM_WORDS is OPEN in the spec (D10); 2^30, the whole 32-bit address space, is a DESIGN CHOICE, unsafe (log entry 2). -/
def resetParams : Params := { memWords := 2 ^ 30, unmappedPolicy := .nop, linkInc := 1 }

end Sys2Proof.Machine
end

