-- ==== Sys2Proof/Machine/State.lean ====
section
/-! DEFINITION. The state of one machine (10_state.md R20 to R35) and its value at creation (R33). -/

namespace Sys2Proof.Machine

/-- The control state of the machine (R29). -/
inductive RunState where
  /-- The next step fetches and executes. -/
  | running
  /-- Terminal; entered only by a step whose fetched word has the opcode HLT. -/
  | halted
  /-- Terminal; entered by the raise of a fault in any step. -/
  | faulted
  deriving DecidableEq, Repr

/-- The kind of a memory access, as a fault records it (60_exceptions.md R182). -/
inductive AccessKind where
  | fetch
  | dataRead
  | dataWrite
  deriving DecidableEq, Repr

/-- The faults of R182, as `fault_record` holds them (R30).
Taking a fault is a NEXT state (R186), so no step ends in Host.Outcome.fault (log entry 4). -/
inductive Fault where
  /-- Raised by a fetch, `lw`, `get`, `sw` or `put` whose address is no multiple of 4 (R183).
  Safe: the machine stops, as the spec says. -/
  | misalignedAccess (kind : AccessKind) (addr : Word)
  /-- Raised by the same accesses at an aligned address at or beyond 4 * MEM_WORDS (R184).
  Safe: decision D11, the machine stops where the source is silent. -/
  | accessOutOfRange (kind : AccessKind) (addr : Word)
  /-- Raised by a fetched word with an opcode of 11 to 127 (R185), and by an unmapped funct under the policy FAULT (R73).
  Safe: decision D8, the machine stops where the source is silent. -/
  | illegalOpcode (w : Word)
  deriving DecidableEq, Repr

/-- Why the model gives an instruction no meaning. -/
inductive Refusal where
  /-- Answered only by an arm of exec whose instruction has no meaning yet; there is none. Safe. -/
  | notModelled (mnemonic : String)
  deriving DecidableEq, Repr

/-- The memory array (R32, 20_memory.md R47: "A model stores memory as words, not bytes"): pairs of a word index and its word.
An unlisted word is 0, as memory is at creation (R33). -/
abbrev Memory := List (Nat × Word)

/-- The canonical form: indices strictly rising, no word listed that an unlisted index reads as. -/
abbrev Memory.wf (m : Memory) : Prop :=
  m.Pairwise (fun p q => p.1 < q.1) ∧ ∀ p ∈ m, p.2 ≠ 0

/-- The whole state of one machine (R20), and the parameters it was created with (R34). -/
structure State where
  /-- x[0] to x[31], slots 0 to 31 of the register file (R21). -/
  regs : Vector Word 32
  /-- The pc, slot 32 of the register file: a byte address (R25). -/
  pc : Word
  /-- mem[0] to mem[MEM_WORDS-1] (R32). -/
  mem : Memory
  /-- `run_state` (R29). -/
  runState : RunState
  /-- `fault_record`: the fault that ended the run, or none (R30). -/
  faultRecord : Option Fault
  /-- The model's own field: MEM_WORDS, UNMAPPED_FUNCT_POLICY, LINK_INC, which no step changes (log entry 1). -/
  params : Params
  deriving DecidableEq, Repr

/-- Creation of a machine with given parameters (R33, 70_reset_and_hazards.md R200). -/
def State.create (p : Params) : State :=
  { regs := Vector.replicate 32 0, pc := 0, mem := [], runState := .running, faultRecord := none, params := p }

/-- The machine right after reset (R33): every value is the spec's, the parameters are resetParams'. -/
def State.reset : State := State.create resetParams

end Sys2Proof.Machine
end

