-- ==== Sys2Proof/Machine/Ops.lean ====
section
/-! DEFINITION. The named operations on registers, pc and memory, and taking a fault.
There is no return from a fault: "FAULTED is left only by creating a new machine" (60_exceptions.md R189). -/

namespace Sys2Proof.Machine

/-! ## Memory as an array of words (10_state.md R32) -/

/-- mem[k]. -/
def Memory.read : Memory → Nat → Word
  | [], _ => 0
  | (a, v) :: rest, k => if a = k then v else Memory.read rest k

/-- Lists a word at its place; its index is not listed yet. -/
def Memory.insert (k : Nat) (v : Word) : Memory → Memory
  | [] => [(k, v)]
  | (a, u) :: rest => if k < a then (k, v) :: (a, u) :: rest else (a, u) :: Memory.insert k v rest

/-- Takes an index off the list. -/
def Memory.erase (k : Nat) : Memory → Memory
  | [] => []
  | (a, u) :: rest => if a = k then Memory.erase k rest else (a, u) :: Memory.erase k rest

/-- mem[k] <- v: all 32 bits replaced (20_memory.md R44). A word that is 0 is not listed. -/
def Memory.write (m : Memory) (k : Nat) (v : Word) : Memory :=
  if v = 0 then Memory.erase k m else Memory.insert k v (Memory.erase k m)

/-- mem[k + i] <- words[i], in order (70_reset_and_hazards.md R203). -/
def Memory.writeList : Memory → Nat → List Word → Memory
  | m, _, [] => m
  | m, k, v :: rest => Memory.writeList (m.write k v) (k + 1) rest

/-! ## Registers and pc -/

/-- x[r] (10_state.md R22): the value stored in slot r, with no side effect. -/
def State.x (s : State) (r : RegIdx) : Word := s.regs[r]

/-- x[r] <- v (R23): the one register write routine, which discards a write to x0. -/
def State.writeReg (s : State) (r : RegIdx) (v : Word) : State :=
  if r = 0 then s else { s with regs := s.regs.set r v }

/-- pc <- v (R27). -/
def State.setPc (s : State) (v : Word) : State := { s with pc := v }

/-- pc <- pc + 4, the unconditional advance of a step whose handler returns (40_step_and_units.md R92, R107). -/
def State.advance (s : State) : State := s.setPc (s.pc + 4)

/-- A register write, then the advance: the end of every handler that writes a register and does not move the pc. -/
def State.writeBack (s : State) (rd : RegIdx) (v : Word) : State := (s.writeReg rd v).advance

/-! ## Ends of a run -/

/-- raise F (60_exceptions.md R186): run_state and fault_record change, nothing else. -/
def State.raise (s : State) (f : Fault) : State := { s with runState := .faulted, faultRecord := some f }

/-- run_state <- HALTED (41_halt.md R120). -/
def State.halt (s : State) : State := { s with runState := .halted }

/-- The code of a fault (60_exceptions.md R182). -/
def Fault.code : Fault → Nat
  | .misalignedAccess _ _ => 1
  | .accessOutOfRange _ _ => 2
  | .illegalOpcode _ => 3

/-! ## Accesses (20_memory.md R40 to R49) -/

/-- The word index `a[31:2]` of an address (R41). -/
def wordIndex (a : Word) : Nat := (a.extractLsb' 2 30).toNat

/-- The outcome of Check(a). -/
inductive Checked where
  | ok (k : Nat)
  | misaligned
  | outOfRange
  deriving DecidableEq, Repr

/-- Check(a) (R42): alignment first, then range. -/
def checkAddress (memWords : Nat) (a : Word) : Checked :=
  if a.extractLsb' 0 2 ≠ 0 then .misaligned
  else if memWords ≤ wordIndex a then .outOfRange
  else .ok (wordIndex a)

/-- MemRead(a, 4) (R43). -/
def State.memRead (s : State) (kind : AccessKind) (a : Word) : Except Fault Word :=
  match checkAddress s.params.memWords a with
  | .ok k => .ok (s.mem.read k)
  | .misaligned => .error (.misalignedAccess kind a)
  | .outOfRange => .error (.accessOutOfRange kind a)

/-- MemWrite(a, 4, v) (R44). -/
def State.memWrite (s : State) (a v : Word) : Except Fault State :=
  match checkAddress s.params.memWords a with
  | .ok k => .ok { s with mem := s.mem.write k v }
  | .misaligned => .error (.misalignedAccess .dataWrite a)
  | .outOfRange => .error (.accessOutOfRange .dataWrite a)

/-- Instruction fetch: MemRead(pc, 4) with kind FETCH (R45). -/
def State.fetch (s : State) : Except Fault Word := s.memRead .fetch s.pc

end Sys2Proof.Machine
end

