-- ==== Sys2Proof/Machine/Operands.lean ====
section
/-! DEFINITION. The operands of the instructions and what is computed from them (00_scope.md R10, 40_step_and_units.md R102). -/

namespace Sys2Proof.Machine

/-- sext_12: "copies its bit N-1 into bits 31 down to N" (R10, R67). -/
def sext12 (imm : BitVec 12) : Word := imm.signExtend 32

/-- sext_20 (R10, R68). -/
def sext20 (imm : BitVec 20) : Word := imm.signExtend 32

/-- The operations of the alu (R102). -/
inductive AluOp where
  | add
  | mul
  | slt
  | ne
  | shl12
  deriving DecidableEq, Repr

/-- The alu (R102, R103): 32-bit results that wrap; no flags, no fault. -/
def alu : AluOp → Word → Word → Word
  | .add, p, q => p + q
  | .mul, p, q => p * q
  | .slt, p, q => sltValue p q
  | .ne, p, q => neValue p q
  | .shl12, p, _ => p * 4096

/-- The effective address of `lw` and `sw`: x[base] + sext_12(imm12), modulo 2^32 (20_memory.md R46). -/
def regImmAddress (s : State) (base : RegIdx) (imm : BitVec 12) : Word := alu .add (s.x base) (sext12 imm)

/-- The effective address of `get` and `put`: x[base] + x[offset], modulo 2^32 (R46). -/
def regRegAddress (s : State) (base offset : RegIdx) : Word := alu .add (s.x base) (s.x offset)

end Sys2Proof.Machine
end

