-- ==== Sys2Proof/Machine/Answer.lean ====
section
/-! DEFINITION. The ends of a handler that several instructions share.
Every one of them is a NEXT state: a fault's entry is one too (60_exceptions.md R186). -/

namespace Sys2Proof.Machine

/-- What a meaning answers. -/
abbrev Answer := Host.Outcome State Fault Refusal

/-- v = MemRead(addr, 4); x[rd] <- v; pc <- pc + 4 (R126, R165).
The access and its checks happen for rd = x0 too (decision D35). -/
def loadInto (rd : RegIdx) (addr : Word) (s : State) : Answer :=
  match s.memRead .dataRead addr with
  | .ok v => .next (s.writeBack rd v)
  | .error f => .next (s.raise f)

/-- MemWrite(addr, 4, v); pc <- pc + 4 (R125, R166). -/
def storeAt (addr v : Word) (s : State) : Answer :=
  match s.memWrite addr v with
  | .ok t => .next t.advance
  | .error f => .next (s.raise f)

/-- An unmapped funct (40_step_and_units.md R97): nothing but the advance, or IllegalOpcode(w) under the policy FAULT. -/
def unmappedFunct (w : Word) (s : State) : Answer :=
  match s.params.unmappedPolicy with
  | .nop => .next s.advance
  | .fault => .next (s.raise (.illegalOpcode w))

/-- A word with no bound opcode (30_encoding.md R72, 60_exceptions.md R185). -/
def illegalOpcode (w : Word) (s : State) : Answer := .next (s.raise (.illegalOpcode w))

end Sys2Proof.Machine
end

