-- ==== Sys2Proof/Machine/Branch.lean ====
section
/-! DEFINITION. The conditional branch (45_branch.md). -/

namespace Sys2Proof.Machine

/-- R150: if x[rs1] != x[rs2], pc <- pc + sext_12(imm12); then, taken or not, pc <- pc + 4. -/
def execBne (rs1 rs2 : RegIdx) (imm : BitVec 12) (s : State) : Answer :=
  if alu .ne (s.x rs1) (s.x rs2) = 1 then .next (s.setPc (s.pc + sext12 imm)).advance else .next s.advance

end Sys2Proof.Machine
end

