-- ==== Sys2Proof/Machine/Halt.lean ====
section
/-! DEFINITION. The halt instruction (41_halt.md). -/

namespace Sys2Proof.Machine

/-- R120: run_state <- HALTED; no register, no memory word and not the pc is written. -/
def execHlt (s : State) : Answer := .next s.halt

end Sys2Proof.Machine
end

