-- ==== Sys2Proof/Machine/Illegal.lean ====
section
/-! DEFINITION. The opcodes bound to no operation (30_encoding.md R72, 60_exceptions.md R185). -/

namespace Sys2Proof.Machine

/-- `illegal.op11` (R72). -/
def execIllegalOp11 (w : Word) (s : State) : Answer := illegalOpcode w s

/-- `illegal.op12_15` (R72). -/
def execIllegalOp12to15 (w : Word) (s : State) : Answer := illegalOpcode w s

/-- `illegal.op16_31` (R72). -/
def execIllegalOp16to31 (w : Word) (s : State) : Answer := illegalOpcode w s

/-- `illegal.op32_63` (R72). -/
def execIllegalOp32to63 (w : Word) (s : State) : Answer := illegalOpcode w s

/-- `illegal.op64_127` (R72). -/
def execIllegalOp64to127 (w : Word) (s : State) : Answer := illegalOpcode w s

end Sys2Proof.Machine
end

