-- ==== Sys2Proof/Machine/ImmediateOps.lean ====
section
/-! DEFINITION. The immediate operations (43_immediate_ops.md). -/

namespace Sys2Proof.Machine

/-- R130: x[rd] <- x[rs1] + sext_12(imm12). -/
def execAddi (rd rs1 : RegIdx) (imm : BitVec 12) (s : State) : Answer :=
  .next (s.writeBack rd (alu .add (s.x rs1) (sext12 imm)))

/-- R131: x[rd] <- 1 if signed(x[rs1]) < signed(sext_12(imm12)), else 0. -/
def execSlti (rd rs1 : RegIdx) (imm : BitVec 12) (s : State) : Answer :=
  .next (s.writeBack rd (alu .slt (s.x rs1) (sext12 imm)))

end Sys2Proof.Machine
end

