-- ==== Sys2Proof/Machine/JumpAndLink.lean ====
section
/-! DEFINITION. The unconditional jump (46_jump_and_link.md). -/

namespace Sys2Proof.Machine

/-- R155: x[rd] <- pc + LINK_INC; pc <- pc + sext_20(imm20); pc <- pc + 4. -/
def execJal (rd : RegIdx) (imm : BitVec 20) (s : State) : Answer :=
  .next ((s.writeReg rd (s.pc + s.params.linkInc)).setPc (s.pc + sext20 imm)).advance

end Sys2Proof.Machine
end

