-- ==== Sys2Proof/Machine/LegacyPutGet.lean ====
section
/-! DEFINITION. The legacy memory-indirect instructions (42_legacy_put_get.md). -/

namespace Sys2Proof.Machine

/-- R125: MemWrite(x[base] + x[offset], 4, x[value]). -/
def execPut (value base offset : RegIdx) (s : State) : Answer :=
  storeAt (regRegAddress s base offset) (s.x value) s

/-- R126: x[value] <- MemRead(x[base] + x[offset], 4). -/
def execGet (value base offset : RegIdx) (s : State) : Answer :=
  loadInto value (regRegAddress s base offset) s

end Sys2Proof.Machine
end

