-- ==== Sys2Proof/Machine/LoadStore.lean ====
section
/-! DEFINITION. Load word and store word (48_load_store.md). -/

namespace Sys2Proof.Machine

/-- R165: x[rd] <- MemRead(x[rs1] + sext_12(imm12), 4). -/
def execLw (rd rs1 : RegIdx) (imm : BitVec 12) (s : State) : Answer :=
  loadInto rd (regImmAddress s rs1 imm) s

/-- R166: MemWrite(x[rs1] + sext_12(imm12), 4, x[rs2]). -/
def execSw (rs1 rs2 : RegIdx) (imm : BitVec 12) (s : State) : Answer :=
  storeAt (regImmAddress s rs1 imm) (s.x rs2) s

end Sys2Proof.Machine
end

