-- ==== Sys2Proof/Machine/LoadUpper.lean ====
section
/-! DEFINITION. Load upper immediate (47_load_upper_immediate.md). -/

namespace Sys2Proof.Machine

/-- R160: x[rd] <- (sext_20(imm20) * 4096) mod 2^32. -/
def execLui (rd : RegIdx) (imm : BitVec 20) (s : State) : Answer :=
  .next (s.writeBack rd (alu .shl12 (sext20 imm) 0))

end Sys2Proof.Machine
end

