-- ==== Sys2Proof/Machine/RegisterOps.lean ====
section
/-! DEFINITION. The register operations (44_register_ops.md). -/

namespace Sys2Proof.Machine

/-- R140: x[rd] <- x[rs1] + x[rs2]. -/
def execAdd (rd rs1 rs2 : RegIdx) (s : State) : Answer :=
  .next (s.writeBack rd (alu .add (s.x rs1) (s.x rs2)))

/-- R141: x[rd] <- the low 32 bits of x[rs1] * x[rs2]. -/
def execMlt (rd rs1 rs2 : RegIdx) (s : State) : Answer :=
  .next (s.writeBack rd (alu .mul (s.x rs1) (s.x rs2)))

end Sys2Proof.Machine
end

