-- ==== Sys2Proof/Machine/Unmapped.lean ====
section
/-! DEFINITION. The unmapped funct values under IMM, OP and BRANCH (40_step_and_units.md R97, R73). -/

namespace Sys2Proof.Machine

/-- `unmapped.imm.f1` (R97). -/
def execUnmappedImmF1 (w : Word) (s : State) : Answer := unmappedFunct w s

/-- `unmapped.imm.f3` (R97). -/
def execUnmappedImmF3 (w : Word) (s : State) : Answer := unmappedFunct w s

/-- `unmapped.imm.f4` (R97). -/
def execUnmappedImmF4 (w : Word) (s : State) : Answer := unmappedFunct w s

/-- `unmapped.imm.f5` (R97). -/
def execUnmappedImmF5 (w : Word) (s : State) : Answer := unmappedFunct w s

/-- `unmapped.imm.f6` (R97). -/
def execUnmappedImmF6 (w : Word) (s : State) : Answer := unmappedFunct w s

/-- `unmapped.imm.f7` (R97). -/
def execUnmappedImmF7 (w : Word) (s : State) : Answer := unmappedFunct w s

/-- `unmapped.op.f1` (R97). -/
def execUnmappedOpF1 (w : Word) (s : State) : Answer := unmappedFunct w s

/-- `unmapped.op.f2` (R97). -/
def execUnmappedOpF2 (w : Word) (s : State) : Answer := unmappedFunct w s

/-- `unmapped.op.f3` (R97). -/
def execUnmappedOpF3 (w : Word) (s : State) : Answer := unmappedFunct w s

/-- `unmapped.op.f4` (R97). -/
def execUnmappedOpF4 (w : Word) (s : State) : Answer := unmappedFunct w s

/-- `unmapped.op.f5` (R97). -/
def execUnmappedOpF5 (w : Word) (s : State) : Answer := unmappedFunct w s

/-- `unmapped.op.f6` (R97). -/
def execUnmappedOpF6 (w : Word) (s : State) : Answer := unmappedFunct w s

/-- `unmapped.op.f7` (R97). -/
def execUnmappedOpF7 (w : Word) (s : State) : Answer := unmappedFunct w s

/-- `unmapped.branch.f0` (R97). -/
def execUnmappedBranchF0 (w : Word) (s : State) : Answer := unmappedFunct w s

/-- `unmapped.branch.f2` (R97). -/
def execUnmappedBranchF2 (w : Word) (s : State) : Answer := unmappedFunct w s

/-- `unmapped.branch.f3` (R97). -/
def execUnmappedBranchF3 (w : Word) (s : State) : Answer := unmappedFunct w s

/-- `unmapped.branch.f4` (R97). -/
def execUnmappedBranchF4 (w : Word) (s : State) : Answer := unmappedFunct w s

/-- `unmapped.branch.f5` (R97). -/
def execUnmappedBranchF5 (w : Word) (s : State) : Answer := unmappedFunct w s

/-- `unmapped.branch.f6` (R97). -/
def execUnmappedBranchF6 (w : Word) (s : State) : Answer := unmappedFunct w s

/-- `unmapped.branch.f7` (R97). -/
def execUnmappedBranchF7 (w : Word) (s : State) : Answer := unmappedFunct w s

end Sys2Proof.Machine
end

