-- ==== Sys2Proof/Machine/Dispatch.lean ====
section
/-! DEFINITION. The dispatcher (30_encoding.md R71, 40_step_and_units.md R92): one arm per constructor of Instr. -/

namespace Sys2Proof.Machine

def exec (i : Instr) (s : State) : Host.Outcome State Fault Refusal :=
  match i with
  | .hlt => Sys2Proof.Machine.execHlt s
  | .put value base offset => Sys2Proof.Machine.execPut value base offset s
  | .get value base offset => Sys2Proof.Machine.execGet value base offset s
  | .addi rd rs1 imm => Sys2Proof.Machine.execAddi rd rs1 imm s
  | .slti rd rs1 imm => Sys2Proof.Machine.execSlti rd rs1 imm s
  | .add rd rs1 rs2 => Sys2Proof.Machine.execAdd rd rs1 rs2 s
  | .mlt rd rs1 rs2 => Sys2Proof.Machine.execMlt rd rs1 rs2 s
  | .bne rs1 rs2 imm => Sys2Proof.Machine.execBne rs1 rs2 imm s
  | .jal rd imm => Sys2Proof.Machine.execJal rd imm s
  | .lui rd imm => Sys2Proof.Machine.execLui rd imm s
  | .lw rd rs1 imm => Sys2Proof.Machine.execLw rd rs1 imm s
  | .sw rs1 rs2 imm => Sys2Proof.Machine.execSw rs1 rs2 imm s
  | .unmappedImmF1 w => Sys2Proof.Machine.execUnmappedImmF1 w s
  | .unmappedImmF3 w => Sys2Proof.Machine.execUnmappedImmF3 w s
  | .unmappedImmF4 w => Sys2Proof.Machine.execUnmappedImmF4 w s
  | .unmappedImmF5 w => Sys2Proof.Machine.execUnmappedImmF5 w s
  | .unmappedImmF6 w => Sys2Proof.Machine.execUnmappedImmF6 w s
  | .unmappedImmF7 w => Sys2Proof.Machine.execUnmappedImmF7 w s
  | .unmappedOpF1 w => Sys2Proof.Machine.execUnmappedOpF1 w s
  | .unmappedOpF2 w => Sys2Proof.Machine.execUnmappedOpF2 w s
  | .unmappedOpF3 w => Sys2Proof.Machine.execUnmappedOpF3 w s
  | .unmappedOpF4 w => Sys2Proof.Machine.execUnmappedOpF4 w s
  | .unmappedOpF5 w => Sys2Proof.Machine.execUnmappedOpF5 w s
  | .unmappedOpF6 w => Sys2Proof.Machine.execUnmappedOpF6 w s
  | .unmappedOpF7 w => Sys2Proof.Machine.execUnmappedOpF7 w s
  | .unmappedBranchF0 w => Sys2Proof.Machine.execUnmappedBranchF0 w s
  | .unmappedBranchF2 w => Sys2Proof.Machine.execUnmappedBranchF2 w s
  | .unmappedBranchF3 w => Sys2Proof.Machine.execUnmappedBranchF3 w s
  | .unmappedBranchF4 w => Sys2Proof.Machine.execUnmappedBranchF4 w s
  | .unmappedBranchF5 w => Sys2Proof.Machine.execUnmappedBranchF5 w s
  | .unmappedBranchF6 w => Sys2Proof.Machine.execUnmappedBranchF6 w s
  | .unmappedBranchF7 w => Sys2Proof.Machine.execUnmappedBranchF7 w s
  | .illegalOp11 w => Sys2Proof.Machine.execIllegalOp11 w s
  | .illegalOp12to15 w => Sys2Proof.Machine.execIllegalOp12to15 w s
  | .illegalOp16to31 w => Sys2Proof.Machine.execIllegalOp16to31 w s
  | .illegalOp32to63 w => Sys2Proof.Machine.execIllegalOp32to63 w s
  | .illegalOp64to127 w => Sys2Proof.Machine.execIllegalOp64to127 w s

end Sys2Proof.Machine
end

