-- ==== Sys2Proof/Machine/Step.lean ====
section
/-! DEFINITION. One step: fetch, decode, execute (40_step_and_units.md R91, R92). -/

namespace Sys2Proof.Machine

/-- step() of R92. A machine that is not RUNNING does not change (R91).
The advance of R92 stands at the end of each handler's meaning, as R14 repeats it there. -/
def step (s : State) : Host.Outcome State Fault Refusal :=
  match s.runState with
  | .running =>
    match s.fetch with
    | .ok w => exec (decode w) s
    | .error f => .next (s.raise f)
  | .halted => .next s
  | .faulted => .next s

/-- What a step reports (R91, R92, R105). -/
inductive Report where
  | progress
  | noProgress
  deriving DecidableEq, Repr

/-- The report of the step taken from s: PROGRESS exactly when the machine is RUNNING after it. -/
def stepReport (s : State) : Report :=
  match step s with
  | .next t => if t.runState = .running then .progress else .noProgress
  | .fault _ => .noProgress
  | .refused _ => .noProgress

/-- The word whose low `nbits` bits are `w`, stored where the next step fetches.
Where that step fetches nothing (a pc that fails the check of R45) nothing is stored (log entry 10). -/
def State.withFetchWord (s : State) (nbits w : Nat) : State :=
  match checkAddress s.params.memWords s.pc with
  | .ok k => { s with mem := s.mem.write k (BitVec.ofNat 32 (w % 2 ^ nbits)) }
  | .misaligned => s
  | .outOfRange => s

end Sys2Proof.Machine
end

