-- ==== Sys2Proof/Machine/Assembler.lean ====
section
/-! DEFINITION. The assembler's syntax and its map from a line to a word (30_encoding.md R80 to R86).
The assembler is software outside the six units (00_scope.md R6): no step uses this file.
Text is a list of characters. Log entry 11 says what R80 to R82 leave open and this file fixes. -/

namespace Sys2Proof.Machine

/-! ## Tokens (R80) -/

/-- White space within a line. -/
def isBlank (c : Char) : Bool := c == ' ' || c == '\t' || c == '\r'

/-- The pieces of a text between separators; a separator that ends the text ends in an empty piece. -/
def splitAt (sep : Char → Bool) : List Char → List (List Char)
  | [] => [[]]
  | c :: rest =>
    if sep c then [] :: splitAt sep rest
    else
      match splitAt sep rest with
      | [] => [[c]]
      | piece :: pieces => (c :: piece) :: pieces

/-- The lines of a source. -/
def sourceLines (src : List Char) : List (List Char) := splitAt (· == '\n') src

/-- The non-empty tokens of a line. -/
def lineTokens (line : List Char) : List (List Char) := (splitAt isBlank line).filter (fun t => !t.isEmpty)

/-! ## Operands (R81, R82, R66) -/

/-- The value of a decimal digit. -/
def digitValue (c : Char) : Option Nat :=
  if '0' ≤ c ∧ c ≤ '9' then some (c.toNat - '0'.toNat) else none

/-- Decimal digits, after a value already read. -/
def digitsFrom : Nat → List Char → Option Nat
  | acc, [] => some acc
  | acc, c :: rest =>
    match digitValue c with
    | some d => digitsFrom (acc * 10 + d) rest
    | none => none

/-- A decimal number of one digit or more. -/
def parseNat : List Char → Option Nat
  | [] => none
  | c :: rest => digitsFrom 0 (c :: rest)

/-- A signed decimal number: an optional `-` and digits (R82). -/
def parseInt : List Char → Option Int
  | '-' :: rest => (parseNat rest).map (fun n => -(n : Int))
  | t => (parseNat t).map (fun n => (n : Int))

/-- A register number 0 to 31; 32 is refused (R66, R81, decision D2). -/
def regOfIndex (n : Nat) : Option RegIdx := if h : n < 32 then some ⟨n, h⟩ else none

/-- A 12-bit immediate, -2048 to 2047, by its low 12 bits (R66, R67). -/
def imm12OfInt (v : Int) : Option (BitVec 12) := if -2048 ≤ v ∧ v ≤ 2047 then some (BitVec.ofInt 12 v) else none

/-- A 20-bit immediate, -524288 to 524287, by its low 20 bits (R66, R68). -/
def imm20OfInt (v : Int) : Option (BitVec 20) := if -524288 ≤ v ∧ v ≤ 524287 then some (BitVec.ofInt 20 v) else none

/-- Why a line gives no word (R86). -/
inductive AsmError where
  | unknownMnemonic (mnemonic : List Char)
  | operandCount
  | badRegister (token : List Char)
  | badImmediate (token : List Char)
  deriving DecidableEq, Repr

/-- A register operand: `x` and a decimal index (R81). -/
def asmReg (t : List Char) : Except AsmError RegIdx :=
  match t with
  | 'x' :: digits =>
    match (parseNat digits).bind regOfIndex with
    | some r => .ok r
    | none => .error (.badRegister t)
  | _ => .error (.badRegister t)

/-- An operand of a 12-bit field (R82). -/
def asmImm12 (t : List Char) : Except AsmError (BitVec 12) :=
  match (parseInt t).bind imm12OfInt with
  | some v => .ok v
  | none => .error (.badImmediate t)

/-- An operand of a 20-bit field (R82). -/
def asmImm20 (t : List Char) : Except AsmError (BitVec 20) :=
  match (parseInt t).bind imm20OfInt with
  | some v => .ok v
  | none => .error (.badImmediate t)

/-! ## Operand lists of the forms of R83 -/

/-- No operand. -/
def asmNone (i : Instr) : List (List Char) → Except AsmError Instr
  | [] => .ok i
  | _ => .error .operandCount

/-- Three registers. -/
def asmRegs (f : RegIdx → RegIdx → RegIdx → Instr) : List (List Char) → Except AsmError Instr
  | [p, q, r] => do return f (← asmReg p) (← asmReg q) (← asmReg r)
  | _ => .error .operandCount

/-- Two registers and a 12-bit immediate. -/
def asmRegsImm (f : RegIdx → RegIdx → BitVec 12 → Instr) : List (List Char) → Except AsmError Instr
  | [p, q, v] => do return f (← asmReg p) (← asmReg q) (← asmImm12 v)
  | _ => .error .operandCount

/-- A register, a 12-bit immediate, a register: the order of `sw`. -/
def asmRegImmReg (f : RegIdx → BitVec 12 → RegIdx → Instr) : List (List Char) → Except AsmError Instr
  | [p, v, q] => do return f (← asmReg p) (← asmImm12 v) (← asmReg q)
  | _ => .error .operandCount

/-- A register and a 12-bit immediate: the order of `set`. -/
def asmRegImm12 (f : RegIdx → BitVec 12 → Instr) : List (List Char) → Except AsmError Instr
  | [p, v] => do return f (← asmReg p) (← asmImm12 v)
  | _ => .error .operandCount

/-- A register and a 20-bit immediate. -/
def asmRegImm20 (f : RegIdx → BitVec 20 → Instr) : List (List Char) → Except AsmError Instr
  | [p, v] => do return f (← asmReg p) (← asmImm20 v)
  | _ => .error .operandCount

/-- The instruction of a mnemonic and its operands (R83); `set xD imm12` is `addi xD x0 imm12` (R84). -/
def asmInstr (mnemonic : List Char) (operands : List (List Char)) : Except AsmError Instr :=
  if mnemonic = ['h', 'l', 't'] then asmNone .hlt operands
  else if mnemonic = ['p', 'u', 't'] then asmRegs .put operands
  else if mnemonic = ['g', 'e', 't'] then asmRegs .get operands
  else if mnemonic = ['a', 'd', 'd', 'i'] then asmRegsImm .addi operands
  else if mnemonic = ['s', 'l', 't', 'i'] then asmRegsImm .slti operands
  else if mnemonic = ['a', 'd', 'd'] then asmRegs .add operands
  else if mnemonic = ['m', 'l', 't'] then asmRegs .mlt operands
  else if mnemonic = ['b', 'n', 'e'] then asmRegsImm .bne operands
  else if mnemonic = ['j', 'a', 'l'] then asmRegImm20 .jal operands
  else if mnemonic = ['l', 'u', 'i'] then asmRegImm20 .lui operands
  else if mnemonic = ['l', 'w'] then asmRegsImm .lw operands
  else if mnemonic = ['s', 'w'] then asmRegImmReg (fun base imm value => .sw base value imm) operands
  else if mnemonic = ['s', 'e', 't'] then asmRegImm12 (fun rd imm => .addi rd 0 imm) operands
  else .error (.unknownMnemonic mnemonic)

/-! ## Lines and sources -/

/-- The word of a line; none for a blank line or a comment line, which are skipped (R80). -/
def assembleLine (line : List Char) : Except AsmError (Option Word) :=
  match lineTokens line with
  | [] => .ok none
  | ('#' :: _) :: _ => .ok none
  | mnemonic :: operands => (asmInstr mnemonic operands).map (fun i => some (encode i))

/-- The words of the lines from line number `n` on; the first offending line ends it with no word (R86). -/
def assembleFrom : Nat → List (List Char) → Except (Nat × AsmError) (List Word)
  | _, [] => .ok []
  | n, line :: rest =>
    match assembleLine line with
    | .error e => .error (n, e)
    | .ok none => assembleFrom (n + 1) rest
    | .ok (some w) =>
      match assembleFrom (n + 1) rest with
      | .error e => .error e
      | .ok ws => .ok (w :: ws)

/-- A source to its words, "one per source line, in source order", or the first error and its line, counted from 1 (R80, R86). -/
def assemble (src : List Char) : Except (Nat × AsmError) (List Word) := assembleFrom 1 (sourceLines src)

end Sys2Proof.Machine
end

