-- ==== Sys2Proof/Machine/HostOps.lean ====
section
/-! DEFINITION. The operations of the host (70_reset_and_hazards.md R200 to R204, 40_step_and_units.md R94, 10_state.md R35).
Creation is State.create, one step is step; the others stand here. The host acts only between steps. -/

namespace Sys2Proof.Machine

/-- "require offset[1:0] = 0 and offset[31:2] + n <= MEM_WORDS, else the load is refused whole" (R203). -/
def loadAccepted (memWords : Nat) (offset : Word) (words : List Word) : Bool :=
  offset.extractLsb' 0 2 == 0 && decide (wordIndex offset + words.length ≤ memWords)

/-- load(offset, words) (R203): none is a refused load, which changes nothing.
An accepted load writes those words and nothing else, and does not start a stopped machine (R204, decision D34). -/
def load (offset : Word) (words : List Word) (s : State) : Option State :=
  if loadAccepted s.params.memWords offset words then
    some { s with mem := s.mem.writeList (wordIndex offset) words }
  else none

/-- run(budget) (R94): at most `budget` calls of step, the halting or faulting call included (decision D33). -/
def run : Nat → State → State
  | 0, s => s
  | budget + 1, s =>
    match step s with
    | .next t => if t.runState = .running then run budget t else t
    | .fault _ => s
    | .refused _ => s

/-- A slot of the register file as the host reads it (R35): 0 to 31 the general registers, 32 the pc (R20). -/
def State.slot (s : State) (i : Fin 33) : Word := if h : i.val < 32 then s.x ⟨i.val, h⟩ else s.pc

/-- mem[k] as the host reads it (R35); none where the array has no such word (R32). -/
def State.memWord (s : State) (k : Nat) : Option Word := if k < s.params.memWords then some (s.mem.read k) else none

end Sys2Proof.Machine
end

