-- ==== Sys2Proof/Machine/Units.lean ====
section
/-! DEFINITION. The six units and the stages of one step (40_step_and_units.md R98 to R106).
The units are the spec's own decomposition (decision D24): this file writes the step a second time, as their data flow, from the
control table of R100. That it is the step of R92 is stated as an obligation; step itself does not use it. -/

namespace Sys2Proof.Machine

/-! ## fetch_unit (R99) -/

/-- Reads the one word of this step, or gives a fetch fault. It holds no state. -/
def fetchUnit (memWords : Nat) (mem : Memory) (pc : Word) : Except Fault Word :=
  match checkAddress memWords pc with
  | .ok k => .ok (mem.read k)
  | .misaligned => .error (.misalignedAccess .fetch pc)
  | .outOfRange => .error (.accessOutOfRange .fetch pc)

/-! ## instruction_decoder (R100) -/

/-- The instruction kinds of R71. -/
inductive Kind where
  | hlt | put | get | addi | slti | add | mlt | bne | jal | lui | lw | sw | unmapped | illegal
  deriving DecidableEq, Repr

/-- The kind of a word, by its opcode and, under IMM, OP and BRANCH, its funct. -/
def kindOf (w : Word) : Kind :=
  match (opcodeField w).toNat with
  | 0 => .hlt
  | 1 => .put
  | 2 => .get
  | 3 => if functField w = 0 then .addi else if functField w = 2 then .slti else .unmapped
  | 4 => if functField w = 0 then .add else .unmapped
  | 5 => .mlt
  | 6 => if functField w = 1 then .bne else .unmapped
  | 7 => .jal
  | 8 => .lui
  | 9 => .lw
  | 10 => .sw
  | _ => .illegal

/-- The alu's first operand. -/
inductive Operand1 where
  | xa | i20
  deriving DecidableEq, Repr

/-- The alu's second operand. -/
inductive Operand2 where
  | xb | xc | i12
  deriving DecidableEq, Repr

/-- What the load_store_unit does. -/
inductive MemOp where
  | none | read | write
  deriving DecidableEq, Repr

/-- What the write port of the register file takes. -/
inductive WriteSource where
  | none | result | rdata | link
  deriving DecidableEq, Repr

/-- The control values of one row of R100's table; a blank operand cell selects nothing that is used. -/
structure Controls where
  aluOp : Option AluOp
  operand1 : Operand1 := .xa
  operand2 : Operand2 := .xb
  memory : MemOp := .none
  write : WriteSource := .none
  deriving DecidableEq, Repr

/-- The control table of R100. -/
def controls : Kind → Controls
  | .hlt => { aluOp := none }
  | .put => { aluOp := some .add, operand1 := .xa, operand2 := .xb, memory := .write }
  | .get => { aluOp := some .add, operand1 := .xa, operand2 := .xb, memory := .read, write := .rdata }
  | .addi => { aluOp := some .add, operand1 := .xa, operand2 := .i12, write := .result }
  | .slti => { aluOp := some .slt, operand1 := .xa, operand2 := .i12, write := .result }
  | .add => { aluOp := some .add, operand1 := .xa, operand2 := .xb, write := .result }
  | .mlt => { aluOp := some .mul, operand1 := .xa, operand2 := .xb, write := .result }
  | .bne => { aluOp := some .ne, operand1 := .xa, operand2 := .xc }
  | .jal => { aluOp := none, write := .link }
  | .lui => { aluOp := some .shl12, operand1 := .i20, write := .result }
  | .lw => { aluOp := some .add, operand1 := .xa, operand2 := .i12, memory := .read, write := .rdata }
  | .sw => { aluOp := some .add, operand1 := .xa, operand2 := .i12, memory := .write }
  | .unmapped => { aluOp := none }
  | .illegal => { aluOp := none }

/-- The decoder's fault: ILLEGAL, and an unmapped funct under the policy FAULT (R72, R97). -/
def decoderFault (policy : UnmappedPolicy) (w : Word) : Option Fault :=
  match kindOf w, policy with
  | .illegal, _ => some (.illegalOpcode w)
  | .unmapped, .fault => some (.illegalOpcode w)
  | _, _ => none

/-! ## alu (R102) -/

/-- The alu with its operand selection; 0 where the control table gives no operation. -/
def aluStage (c : Controls) (xa xb xc i12 i20 : Word) : Word :=
  match c.aluOp with
  | none => 0
  | some op =>
    alu op
      (match c.operand1 with | .xa => xa | .i20 => i20)
      (match c.operand2 with | .xb => xb | .xc => xc | .i12 => i12)

/-! ## load_store_unit (R104) -/

/-- At most one access: the memory after it and the word read (0 where nothing is read), or a fault. -/
def loadStoreUnit (memWords : Nat) (mem : Memory) (op : MemOp) (addr wdata : Word) : Except Fault (Memory × Word) :=
  match op, checkAddress memWords addr with
  | .none, _ => .ok (mem, 0)
  | .read, .ok k => .ok (mem, mem.read k)
  | .read, .misaligned => .error (.misalignedAccess .dataRead addr)
  | .read, .outOfRange => .error (.accessOutOfRange .dataRead addr)
  | .write, .ok k => .ok (mem.write k wdata, 0)
  | .write, .misaligned => .error (.misalignedAccess .dataWrite addr)
  | .write, .outOfRange => .error (.accessOutOfRange .dataWrite addr)

/-! ## register_file (R101) -/

/-- The one write port, with its enable; the x0 check lives in writeReg. -/
def registerWriteStage (s : State) (source : WriteSource) (c : RegIdx) (result rdata link : Word) : State :=
  match source with
  | .none => s
  | .result => s.writeReg c result
  | .rdata => s.writeReg c rdata
  | .link => s.writeReg c link

/-! ## pc_sequencer (R105) -/

/-- The pc_sequencer's outputs. -/
structure Sequenced where
  pc : Word
  runState : RunState
  faultRecord : Option Fault
  report : Report
  deriving DecidableEq, Repr

/-- The function of R105 on a RUNNING machine. -/
def pcSequencer (pc : Word) (record : Option Fault) (fault : Option Fault) (kind : Kind) (i12 i20 ne : Word) : Sequenced :=
  match fault with
  | some f => { pc := pc, runState := .faulted, faultRecord := some f, report := .noProgress }
  | none =>
    match kind with
    | .hlt => { pc := pc, runState := .halted, faultRecord := record, report := .noProgress }
    | .bne =>
      { pc := (if ne = 1 then pc + i12 else pc) + 4, runState := .running, faultRecord := record, report := .progress }
    | .jal => { pc := pc + i20 + 4, runState := .running, faultRecord := record, report := .progress }
    | _ => { pc := pc + 4, runState := .running, faultRecord := record, report := .progress }

/-- Stage 8: the pc_sequencer's outputs written to slot 32, run_state and fault_record. -/
def sequenceStage (s : State) (q : Sequenced) : State × Report :=
  ({ s with pc := q.pc, runState := q.runState, faultRecord := q.faultRecord }, q.report)

/-! ## The stages of one step (R98) -/

/-- Stages 4 to 8 for a word the decoder has no fault on: registers read, alu, memory, register write, pc. -/
def executeStages (s : State) (w : Word) : State × Report :=
  let kind := kindOf w
  let ctl := controls kind
  let i12 := sext12 (imm12Field w)
  let i20 := sext20 (imm20Field w)
  let result := aluStage ctl (s.x (fieldA w)) (s.x (fieldB w)) (s.x (fieldC w)) i12 i20
  match loadStoreUnit s.params.memWords s.mem ctl.memory result (s.x (fieldC w)) with
  | .error f => sequenceStage s (pcSequencer s.pc s.faultRecord (some f) kind i12 i20 result)
  | .ok (mem, rdata) =>
    let t := registerWriteStage { s with mem := mem } ctl.write (fieldC w) result rdata (s.pc + s.params.linkInc)
    sequenceStage t (pcSequencer s.pc s.faultRecord none kind i12 i20 result)

/-- One step as the six units perform it: a fault of an earlier stage skips the later ones (R98, R106). -/
def unitStep (s : State) : State × Report :=
  match s.runState with
  | .running =>
    match fetchUnit s.params.memWords s.mem s.pc with
    | .error f => sequenceStage s (pcSequencer s.pc s.faultRecord (some f) .illegal 0 0 0)
    | .ok w =>
      match decoderFault s.params.unmappedPolicy w with
      | some f => sequenceStage s (pcSequencer s.pc s.faultRecord (some f) (kindOf w) 0 0 0)
      | none => executeStages s w
  | .halted => (s, .noProgress)
  | .faulted => (s, .noProgress)

end Sys2Proof.Machine
end

