-- ==== Sys2Proof/Safety.lean ====
section
/-! DEFINITION. The terms in which claims speak of a machine: what a legal machine is, what one instruction may change, and the
spec's tables about instructions (10_state.md R24, 30_encoding.md R65, 60_exceptions.md R182). -/

namespace Sys2Proof.Machine

/-! ## A legal machine -/

/-- What holds of a machine from its creation on. -/
structure State.Inv (s : State) : Prop where
  /-- The memory list is in its canonical form. -/
  memCanonical : s.mem.wf
  /-- The array has MEM_WORDS words (R32). -/
  memInRange : ∀ p ∈ s.mem, p.1 < s.params.memWords
  /-- "x[0] = 0 in every reachable state" (R22). -/
  x0Zero : s.x 0 = 0
  /-- 1 <= MEM_WORDS <= 2^30 (R7). -/
  paramsLegal : s.params.wf
  /-- `fault_record` holds a fault exactly in FAULTED (R29, R30). -/
  recordIffFaulted : s.runState = .faulted ↔ s.faultRecord ≠ none

/-- The address `a` names a word of the memory (R40 to R42). -/
abbrev State.Accessible (s : State) (a : Word) : Prop := a.extractLsb' 0 2 = 0 ∧ wordIndex a < s.params.memWords

/-- The next step fetches a word (R45, R92). -/
abbrev State.CanFetch (s : State) : Prop := s.runState = .running ∧ s.Accessible s.pc

/-- The word that the next step fetches, where it can. -/
abbrev State.fetchedWord (s : State) : Word := s.mem.read (wordIndex s.pc)

/-! ## What an instruction changes -/

/-- Nothing but the pc and x[rd] may differ, and x[rd] is v unless rd is x0, which keeps its value. -/
structure OnlyRegister (s t : State) (rd : RegIdx) (v : Word) : Prop where
  written : rd ≠ 0 → t.x rd = v
  zero : t.x 0 = s.x 0
  others : ∀ r, r ≠ rd → t.x r = s.x r
  mem : t.mem = s.mem
  runState : t.runState = s.runState
  faultRecord : t.faultRecord = s.faultRecord
  params : t.params = s.params

/-- Nothing but the pc and the memory word at the address `a` may differ, and that word is v. -/
structure OnlyMemory (s t : State) (a v : Word) : Prop where
  written : t.mem.read (wordIndex a) = v
  others : ∀ k, k ≠ wordIndex a → t.mem.read k = s.mem.read k
  regs : ∀ r, t.x r = s.x r
  runState : t.runState = s.runState
  faultRecord : t.faultRecord = s.faultRecord
  params : t.params = s.params

/-- Nothing but the pc may differ. -/
structure OnlyPc (s t : State) : Prop where
  regs : ∀ r, t.x r = s.x r
  mem : t.mem = s.mem
  runState : t.runState = s.runState
  faultRecord : t.faultRecord = s.faultRecord
  params : t.params = s.params

/-- Fault entry with the fault f (R186): run_state and fault_record change, nothing else. -/
structure FaultTaken (s t : State) (f : Fault) : Prop where
  faulted : t.runState = .faulted
  record : t.faultRecord = some f
  regs : ∀ r, t.x r = s.x r
  pc : t.pc = s.pc
  mem : t.mem = s.mem
  params : t.params = s.params

/-! ## The spec's tables about instructions -/

/-- The general register an instruction writes (the table of R24). -/
def destination : Instr → Option RegIdx
  | .get value _ _ => some value
  | .addi rd _ _ => some rd
  | .slti rd _ _ => some rd
  | .add rd _ _ => some rd
  | .mlt rd _ _ => some rd
  | .jal rd _ => some rd
  | .lui rd _ => some rd
  | .lw rd _ _ => some rd
  | _ => none

/-- The general registers an instruction reads (the table of R24). -/
def sources : Instr → List RegIdx
  | .put value base offset => [value, base, offset]
  | .get _ base offset => [base, offset]
  | .addi _ rs1 _ => [rs1]
  | .slti _ rs1 _ => [rs1]
  | .add _ rs1 rs2 => [rs1, rs2]
  | .mlt _ rs1 rs2 => [rs1, rs2]
  | .bne rs1 rs2 _ => [rs1, rs2]
  | .lw _ rs1 _ => [rs1]
  | .sw rs1 rs2 _ => [rs1, rs2]
  | _ => []

/-- The address an instruction stores to, and the word it stores (R125, R166). -/
def storeOf (s : State) : Instr → Option (Word × Word)
  | .put value base offset => some (regRegAddress s base offset, s.x value)
  | .sw rs1 rs2 imm => some (regImmAddress s rs1 imm, s.x rs2)
  | _ => none

/-- The data access of an instruction: its kind and its address (R182). -/
def dataAccessOf (s : State) : Instr → Option (AccessKind × Word)
  | .put _ base offset => some (.dataWrite, regRegAddress s base offset)
  | .get _ base offset => some (.dataRead, regRegAddress s base offset)
  | .lw _ rs1 imm => some (.dataRead, regImmAddress s rs1 imm)
  | .sw rs1 _ imm => some (.dataWrite, regImmAddress s rs1 imm)
  | _ => none

/-- Where the pc goes before the advance of a step whose handler returns (R27, R105). -/
def pcBeforeAdvance (s : State) : Instr → Word
  | .bne rs1 rs2 imm => if s.x rs1 ≠ s.x rs2 then s.pc + imm.signExtend 32 else s.pc
  | .jal _ imm => s.pc + imm.signExtend 32
  | _ => s.pc

/-- The twenty rows of an unmapped funct, each with the word w (R97). -/
def unmappedForms (w : Word) : List Instr :=
  [ .unmappedImmF1 w, .unmappedImmF3 w, .unmappedImmF4 w, .unmappedImmF5 w,
    .unmappedImmF6 w, .unmappedImmF7 w, .unmappedOpF1 w, .unmappedOpF2 w,
    .unmappedOpF3 w, .unmappedOpF4 w, .unmappedOpF5 w, .unmappedOpF6 w,
    .unmappedOpF7 w, .unmappedBranchF0 w, .unmappedBranchF2 w, .unmappedBranchF3 w,
    .unmappedBranchF4 w, .unmappedBranchF5 w, .unmappedBranchF6 w, .unmappedBranchF7 w ]

/-- The five rows of an opcode bound to nothing, each with the word w (R72). -/
def illegalForms (w : Word) : List Instr :=
  [ .illegalOp11 w, .illegalOp12to15 w, .illegalOp16to31 w, .illegalOp32to63 w,
    .illegalOp64to127 w ]

/-- The mnemonics of an assembler line: the twelve of R83, and `set` (R84). -/
def asmMnemonics : List (List Char) :=
  [ ['h', 'l', 't'], ['p', 'u', 't'], ['g', 'e', 't'], ['a', 'd', 'd', 'i'], ['s', 'l', 't', 'i'], ['a', 'd', 'd'],
    ['m', 'l', 't'], ['b', 'n', 'e'], ['j', 'a', 'l'], ['l', 'u', 'i'], ['l', 'w'], ['s', 'w'], ['s', 'e', 't'] ]

/-- The bits of a word that the decoder reads for its instruction; the others are ignored and written 0 (R65).
A word whose term carries it whole keeps every bit. -/
def keptBits : Instr → Word
  | .hlt => 0x0000007f
  | .put _ _ _ => 0x01ff8fff
  | .get _ _ _ => 0x01ff8fff
  | .add _ _ _ => 0x01ffffff
  | .mlt _ _ _ => 0x01ff8fff
  | .lw _ _ _ => 0xffff8fff
  | .sw _ _ _ => 0xffff8fff
  | _ => 0xffffffff

/-- The fault of one access (R42, R182). -/
def accessFault (s : State) (kind : AccessKind) (a : Word) : Option Fault :=
  if a.extractLsb' 0 2 ≠ 0 then some (.misalignedAccess kind a)
  else if s.params.memWords ≤ wordIndex a then some (.accessOutOfRange kind a)
  else none

/-- The fault of the step of a RUNNING machine, by the table of R182 in the order of R190: fetch, decode, data access. -/
def stepFault (s : State) : Option Fault :=
  match accessFault s .fetch s.pc with
  | some f => some f
  | none =>
    let w := s.fetchedWord
    if 11 ≤ (w.extractLsb' 0 7).toNat ∨ (decode w ∈ unmappedForms w ∧ s.params.unmappedPolicy = .fault) then
      some (.illegalOpcode w)
    else
      match dataAccessOf s (decode w) with
      | some (kind, a) => accessFault s kind a
      | none => none

end Sys2Proof.Machine
end

