-- ==== Sys2Proof/Certificates/Slice0/Obligations.lean ====
section
/-! DEFINITION. The statements for the provers, each with the rule of spec/ it comes from.
They quantify over every state, so over every value of MEM_WORDS, UNMAPPED_FUNCT_POLICY and LINK_INC that a state carries. -/

open Sys2Proof Sys2Proof.Machine

/-! ## Encoding (30_encoding.md) -/

/-- The round trip of R75 for every well-formed term at every operand value, and its converse up to ignored bits (R65).
R75 speaks of the legal operand sets of R66.
That the illegal and the unmapped rows have terms too, which carry the whole word and keep every bit of it, is the model's own
choice (log entry 12); the numbers and places of the fields are the spec's decisions D1 to D6 and D31 (log entry 6). -/
def Obligations.DecodeAndEncodeAgree : Prop :=
  (∀ i : Instr, i.WellFormed → decode (encode i) = i) ∧
  (∀ w : Word, encode (decode w) = w &&& keptBits (decode w))

/-- The decoder gives only well-formed instructions (R71).
The numbers and places of the fields are the spec's decisions D1 to D6 and D31 (log entry 6). -/
def Obligations.DecodedInstructionsAreWellFormed : Prop :=
  ∀ w : Word, (decode w).WellFormed

/-- A word has a row's fixed bits exactly when it decodes to that row's instruction.
The table's numbers are the spec's decisions D1 to D6 and D31 (log entry 6). -/
def Obligations.DecoderAgreesWithTheOpcodeTable : Prop :=
  ∀ w : Word, ∀ row ∈ opcodeTable, Word.fits row.mask row.mtch w = true ↔ (decode w).mnemonic = row.mnemonic

/-- The rows of the opcode table are disjoint and cover all words.
The table's numbers are the spec's decisions D1 to D6 and D31 (log entry 6). -/
def Obligations.EveryWordIsOfExactlyOneRow : Prop :=
  ∀ w : Word, ∃ row ∈ opcodeTable, Word.fits row.mask row.mtch w = true ∧
    ∀ row' ∈ opcodeTable, Word.fits row'.mask row'.mtch w = true → row' = row

/-- The bits a shape does not use are ignored by the decoder (R65).
The spec's decision D7 (log entry 12). -/
def Obligations.IgnoredBitsDoNotMatter : Prop :=
  ∀ w v : Word, w &&& keptBits (decode w) = v &&& keptBits (decode w) → decode v = decode w

/-- R10: the value of a sign-extended field as an integer, for both widths. -/
def Obligations.SignExtensionKeepsTheSignedValue : Prop :=
  (∀ v : BitVec 12, (sext12 v).toInt = if 2 ^ 11 ≤ v.toNat then (v.toNat : Int) - 2 ^ 12 else (v.toNat : Int)) ∧
  (∀ v : BitVec 20, (sext20 v).toInt = if 2 ^ 19 ≤ v.toNat then (v.toNat : Int) - 2 ^ 20 else (v.toNat : Int))

/-- Words written out from the tables of 30_encoding.md R76 and 95_test_vectors.md S1.
The numbers are the spec's decisions D1 to D6 and D31 (log entry 6). -/
def Obligations.WrittenOutWordsDecode : Prop :=
  decode 0x00000000 = .hlt ∧
  decode 0x01ff8f81 = .put 31 31 31 ∧
  decode 0x00930502 = .get 10 6 9 ∧
  decode 0x800f8f83 = .addi 31 31 (BitVec.ofInt 12 (-2048)) ∧
  decode 0xfff02f83 = .slti 31 0 (BitVec.ofInt 12 (-1)) ∧
  decode 0x01f00f84 = .add 31 0 31 ∧
  decode 0x000f8005 = .mlt 0 31 0 ∧
  decode 0x7ff01f86 = .bne 0 31 2047 ∧
  decode 0x80000f87 = .jal 31 (BitVec.ofInt 20 (-524288)) ∧
  decode 0x7ffff008 = .lui 0 524287 ∧
  decode 0xffcf8f89 = .lw 31 31 (BitVec.ofInt 12 (-4)) ∧
  decode 0x0003840a = .sw 7 8 0 ∧
  decode 0x00509083 = .unmappedImmF1 0x00509083 ∧
  decode 0x0010b084 = .unmappedOpF3 0x0010b084 ∧
  decode 0x00808006 = .unmappedBranchF0 0x00808006 ∧
  decode 0x0000000b = .illegalOp11 0x0000000b ∧
  decode 0xffffffff = .illegalOp64to127 0xffffffff

/-! ## The instructions (files 41 to 48, 40_step_and_units.md R97) -/

/-- R120: the words of `hlt`; its effect, which is run_state alone; and its report. -/
def Obligations.HltStopsTheMachineAndChangesNothingElse : Prop :=
  encode .hlt = 0 ∧
  (∀ w : Word, w.extractLsb' 0 7 = 0 → decode w = .hlt) ∧
  (∀ s : State, exec .hlt s = .next { s with runState := .halted }) ∧
  (∀ s : State, s.CanFetch → s.fetchedWord.extractLsb' 0 7 = 0 →
    step s = .next { s with runState := .halted } ∧ stepReport s = .noProgress)

/-- R125: the words of `put`, its store where the address is accessible, and its faults where it is not.
A byte address that wraps and is checked for its range: the spec's decisions D36, D12, D11 (log entry 5). -/
def Obligations.PutStoresAtRegisterPlusRegister : Prop :=
  (∀ w : Word, w.extractLsb' 0 7 = 1 →
    decode w = .put (w.extractLsb' 7 5).toFin (w.extractLsb' 15 5).toFin (w.extractLsb' 20 5).toFin) ∧
  ∀ (value base offset : RegIdx) (s : State),
    (s.Accessible (s.x base + s.x offset) →
      ∃ t, exec (.put value base offset) s = .next t ∧ t.pc = s.pc + 4 ∧
        OnlyMemory s t (s.x base + s.x offset) (s.x value)) ∧
    ((s.x base + s.x offset).extractLsb' 0 2 ≠ 0 →
      ∃ t, exec (.put value base offset) s = .next t ∧
        FaultTaken s t (.misalignedAccess .dataWrite (s.x base + s.x offset))) ∧
    ((s.x base + s.x offset).extractLsb' 0 2 = 0 → s.params.memWords ≤ wordIndex (s.x base + s.x offset) →
      ∃ t, exec (.put value base offset) s = .next t ∧
        FaultTaken s t (.accessOutOfRange .dataWrite (s.x base + s.x offset)))

/-- R126: the words of `get`, its load where the address is accessible, and its faults where it is not.
The address as for `put` (D36, D12, D11); the access of a `get` into x0 is the spec's decision D35 (log entry 5). -/
def Obligations.GetLoadsFromRegisterPlusRegister : Prop :=
  (∀ w : Word, w.extractLsb' 0 7 = 2 →
    decode w = .get (w.extractLsb' 7 5).toFin (w.extractLsb' 15 5).toFin (w.extractLsb' 20 5).toFin) ∧
  ∀ (value base offset : RegIdx) (s : State),
    (s.Accessible (s.x base + s.x offset) →
      ∃ t, exec (.get value base offset) s = .next t ∧ t.pc = s.pc + 4 ∧
        OnlyRegister s t value (s.mem.read (wordIndex (s.x base + s.x offset)))) ∧
    ((s.x base + s.x offset).extractLsb' 0 2 ≠ 0 →
      ∃ t, exec (.get value base offset) s = .next t ∧
        FaultTaken s t (.misalignedAccess .dataRead (s.x base + s.x offset))) ∧
    ((s.x base + s.x offset).extractLsb' 0 2 = 0 → s.params.memWords ≤ wordIndex (s.x base + s.x offset) →
      ∃ t, exec (.get value base offset) s = .next t ∧
        FaultTaken s t (.accessOutOfRange .dataRead (s.x base + s.x offset)))

/-- R130: the words of `addi` and its effect on every state and operands. -/
def Obligations.AddiAddsTheSignExtendedImmediate : Prop :=
  (∀ w : Word, w.extractLsb' 0 7 = 3 → w.extractLsb' 12 3 = 0 →
    decode w = .addi (w.extractLsb' 7 5).toFin (w.extractLsb' 15 5).toFin (w.extractLsb' 20 12)) ∧
  ∀ (rd rs1 : RegIdx) (imm : BitVec 12) (s : State),
    ∃ t, exec (.addi rd rs1 imm) s = .next t ∧ t.pc = s.pc + 4 ∧
      OnlyRegister s t rd (BitVec.ofInt 32 ((s.x rs1).toInt + imm.toInt))

/-- R131: the words of `slti` and its effect on every state and operands.
That both sides are 32-bit integers is the spec's decision D29 (log entry 5). -/
def Obligations.SltiComparesSigned : Prop :=
  (∀ w : Word, w.extractLsb' 0 7 = 3 → w.extractLsb' 12 3 = 2 →
    decode w = .slti (w.extractLsb' 7 5).toFin (w.extractLsb' 15 5).toFin (w.extractLsb' 20 12)) ∧
  ∀ (rd rs1 : RegIdx) (imm : BitVec 12) (s : State),
    ∃ t, exec (.slti rd rs1 imm) s = .next t ∧ t.pc = s.pc + 4 ∧
      OnlyRegister s t rd (if (s.x rs1).toInt < imm.toInt then 1 else 0)

/-- R140: the words of `add` and its effect on every state and operands. -/
def Obligations.AddAddsTwoRegisters : Prop :=
  (∀ w : Word, w.extractLsb' 0 7 = 4 → w.extractLsb' 12 3 = 0 →
    decode w = .add (w.extractLsb' 7 5).toFin (w.extractLsb' 15 5).toFin (w.extractLsb' 20 5).toFin) ∧
  ∀ (rd rs1 rs2 : RegIdx) (s : State),
    ∃ t, exec (.add rd rs1 rs2) s = .next t ∧ t.pc = s.pc + 4 ∧
      OnlyRegister s t rd (BitVec.ofNat 32 ((s.x rs1).toNat + (s.x rs2).toNat))

/-- R141: the words of `mlt` and its effect on every state and operands. -/
def Obligations.MltKeepsTheLowWordOfTheProduct : Prop :=
  (∀ w : Word, w.extractLsb' 0 7 = 5 →
    decode w = .mlt (w.extractLsb' 7 5).toFin (w.extractLsb' 15 5).toFin (w.extractLsb' 20 5).toFin) ∧
  ∀ (rd rs1 rs2 : RegIdx) (s : State),
    ∃ t, exec (.mlt rd rs1 rs2) s = .next t ∧ t.pc = s.pc + 4 ∧
      OnlyRegister s t rd (BitVec.ofNat 32 ((s.x rs1).toNat * (s.x rs2).toNat))

/-- R150: the words of `bne` and its effect on every state and operands, taken or not.
The unscaled immediate and the comparison of all bits are the spec's decisions D17 and D30 (log entry 5). -/
def Obligations.BneMovesThePcWhenRegistersDiffer : Prop :=
  (∀ w : Word, w.extractLsb' 0 7 = 6 → w.extractLsb' 12 3 = 1 →
    decode w = .bne (w.extractLsb' 15 5).toFin (w.extractLsb' 7 5).toFin (w.extractLsb' 20 12)) ∧
  ∀ (rs1 rs2 : RegIdx) (imm : BitVec 12) (s : State),
    ∃ t, exec (.bne rs1 rs2 imm) s = .next t ∧ OnlyPc s t ∧
      (s.x rs1 ≠ s.x rs2 → t.pc = s.pc + imm.signExtend 32 + 4) ∧
      (s.x rs1 = s.x rs2 → t.pc = s.pc + 4)

/-- R155: the words of `jal` and its effect on every state and operands, with the parameter LINK_INC for its 1
(R7, 93_implementation_defined.md U6).
The unscaled immediate and the literal link value are the spec's decisions D17 and D18 (log entries 3 and 5). -/
def Obligations.JalLinksAndJumps : Prop :=
  (∀ w : Word, w.extractLsb' 0 7 = 7 → decode w = .jal (w.extractLsb' 7 5).toFin (w.extractLsb' 12 20)) ∧
  ∀ (rd : RegIdx) (imm : BitVec 20) (s : State),
    ∃ t, exec (.jal rd imm) s = .next t ∧ t.pc = s.pc + imm.signExtend 32 + 4 ∧
      OnlyRegister s t rd (s.pc + s.params.linkInc) ∧
      (s.params.linkInc = 1 → rd ≠ 0 → t.x rd = s.pc + 1)

/-- R160: the words of `lui` and its effect on every state and operands.
That the sign of the immediate does not matter is the spec's decision D28 (log entry 5). -/
def Obligations.LuiPutsTheImmediateInTheUpperBits : Prop :=
  (∀ w : Word, w.extractLsb' 0 7 = 8 → decode w = .lui (w.extractLsb' 7 5).toFin (w.extractLsb' 12 20)) ∧
  ∀ (rd : RegIdx) (imm : BitVec 20) (s : State),
    ∃ t, exec (.lui rd imm) s = .next t ∧ t.pc = s.pc + 4 ∧ OnlyRegister s t rd (imm ++ 0#12)

/-- R165: the words of `lw`, its load where the address is accessible, and its faults where it is not.
The access of an `lw` into x0 and the range fault are the spec's decisions D35 and D11 (log entry 5). -/
def Obligations.LwLoadsTheAddressedWord : Prop :=
  (∀ w : Word, w.extractLsb' 0 7 = 9 →
    decode w = .lw (w.extractLsb' 7 5).toFin (w.extractLsb' 15 5).toFin (w.extractLsb' 20 12)) ∧
  ∀ (rd rs1 : RegIdx) (imm : BitVec 12) (s : State),
    (s.Accessible (s.x rs1 + imm.signExtend 32) →
      ∃ t, exec (.lw rd rs1 imm) s = .next t ∧ t.pc = s.pc + 4 ∧
        OnlyRegister s t rd (s.mem.read (wordIndex (s.x rs1 + imm.signExtend 32)))) ∧
    ((s.x rs1 + imm.signExtend 32).extractLsb' 0 2 ≠ 0 →
      ∃ t, exec (.lw rd rs1 imm) s = .next t ∧
        FaultTaken s t (.misalignedAccess .dataRead (s.x rs1 + imm.signExtend 32))) ∧
    ((s.x rs1 + imm.signExtend 32).extractLsb' 0 2 = 0 →
      s.params.memWords ≤ wordIndex (s.x rs1 + imm.signExtend 32) →
      ∃ t, exec (.lw rd rs1 imm) s = .next t ∧
        FaultTaken s t (.accessOutOfRange .dataRead (s.x rs1 + imm.signExtend 32)))

/-- R166: the words of `sw`, its store where the address is accessible, and its faults where it is not.
The range fault and the state after a fault are the spec's decisions D11 and D14 (log entry 5). -/
def Obligations.SwStoresTheAddressedWord : Prop :=
  (∀ w : Word, w.extractLsb' 0 7 = 10 →
    decode w = .sw (w.extractLsb' 15 5).toFin (w.extractLsb' 7 5).toFin (w.extractLsb' 20 12)) ∧
  ∀ (rs1 rs2 : RegIdx) (imm : BitVec 12) (s : State),
    (s.Accessible (s.x rs1 + imm.signExtend 32) →
      ∃ t, exec (.sw rs1 rs2 imm) s = .next t ∧ t.pc = s.pc + 4 ∧
        OnlyMemory s t (s.x rs1 + imm.signExtend 32) (s.x rs2)) ∧
    ((s.x rs1 + imm.signExtend 32).extractLsb' 0 2 ≠ 0 →
      ∃ t, exec (.sw rs1 rs2 imm) s = .next t ∧
        FaultTaken s t (.misalignedAccess .dataWrite (s.x rs1 + imm.signExtend 32))) ∧
    ((s.x rs1 + imm.signExtend 32).extractLsb' 0 2 = 0 →
      s.params.memWords ≤ wordIndex (s.x rs1 + imm.signExtend 32) →
      ∃ t, exec (.sw rs1 rs2 imm) s = .next t ∧
        FaultTaken s t (.accessOutOfRange .dataWrite (s.x rs1 + imm.signExtend 32)))

/-- R97: which words are the twenty unmapped rows, and what each row does under either policy.
The policy is the spec's decision D9 (log entry 3). -/
def Obligations.UnmappedFunctIsANoOpOrFaultsByPolicy : Prop :=
  (∀ w : Word,
    ((w.extractLsb' 0 7 = 3 ∧ w.extractLsb' 12 3 ≠ 0 ∧ w.extractLsb' 12 3 ≠ 2) ∨
      (w.extractLsb' 0 7 = 4 ∧ w.extractLsb' 12 3 ≠ 0) ∨
      (w.extractLsb' 0 7 = 6 ∧ w.extractLsb' 12 3 ≠ 1)) ↔ decode w ∈ unmappedForms w) ∧
  ∀ (w : Word) (s : State), ∀ i ∈ unmappedForms w,
    (s.params.unmappedPolicy = .nop → ∃ t, exec i s = .next t ∧ t.pc = s.pc + 4 ∧ OnlyPc s t) ∧
    (s.params.unmappedPolicy = .fault → ∃ t, exec i s = .next t ∧ FaultTaken s t (.illegalOpcode w))

/-- R72: which words are the five illegal rows, and that each raises IllegalOpcode(w).
The spec's decision D8 (log entry 5). -/
def Obligations.IllegalOpcodesFault : Prop :=
  (∀ w : Word, 11 ≤ (w.extractLsb' 0 7).toNat ↔ decode w ∈ illegalForms w) ∧
  ∀ (w : Word) (s : State), ∀ i ∈ illegalForms w, ∃ t, exec i s = .next t ∧ FaultTaken s t (.illegalOpcode w)

/-- R70: `hlt` is opcode 0, so the zero word is `hlt`, and a fetch of a word that is 0 halts the machine.
That HLT is 0 is the spec's decision D5 (log entry 6). -/
def Obligations.ZeroedMemoryHalts : Prop :=
  decode 0 = .hlt ∧
  (∀ w : Word, decode w = .hlt ↔ w.extractLsb' 0 7 = 0) ∧
  ∀ s : State, s.CanFetch → s.fetchedWord = 0 → step s = .next { s with runState := .halted }

/-! ## The step (40_step_and_units.md) -/

/-- A step of a machine that fetches a word runs the instruction the word decodes to.
The advance of R92 is part of exec: step adds nothing around it. -/
def Obligations.StepRunsTheDecodedInstruction : Prop :=
  ∀ s : State, s.CanFetch → step s = exec (decode s.fetchedWord) s

/-- R45: fetch goes through the check of every access; where it passes, the whole fetched word is the instruction.
The spec's decisions D16 and D11 (log entry 5). -/
def Obligations.FetchIsCheckedLikeData : Prop :=
  ∀ s : State, s.runState = .running →
    (s.pc.extractLsb' 0 2 ≠ 0 → ∃ t, step s = .next t ∧ FaultTaken s t (.misalignedAccess .fetch s.pc)) ∧
    (s.pc.extractLsb' 0 2 = 0 → s.params.memWords ≤ wordIndex s.pc →
      ∃ t, step s = .next t ∧ FaultTaken s t (.accessOutOfRange .fetch s.pc)) ∧
    (s.Accessible s.pc → step s = exec (decode s.fetchedWord) s)

/-- R91: a machine that is not RUNNING does not change and reports no progress.
The spec's decision D23 (log entry 5). -/
def Obligations.StoppedMachineDoesNotChange : Prop :=
  ∀ s : State, s.runState = .halted ∨ s.runState = .faulted → step s = .next s ∧ stepReport s = .noProgress

/-- No step ends in a fault outcome or a refusal: every state has a next state.
That a fault is a next state is the model's reading of R186 (log entry 4). -/
def Obligations.EveryStepAnswersANextState : Prop :=
  ∀ s : State, ∃ t, step s = .next t

/-- HALTED is entered exactly by a step whose fetched word has the opcode HLT (R29).
The number of HLT is the spec's decision D5 (log entry 6). -/
def Obligations.HaltedOnlyByTheHaltOpcode : Prop :=
  ∀ s t : State, s.runState = .running → step s = .next t →
    (t.runState = .halted ↔ s.Accessible s.pc ∧ s.fetchedWord.extractLsb' 0 7 = 0)

/-- R27: how the pc moves.
The wrap and the pc of a stopped step are the spec's decisions D13 and D14 (log entry 5). -/
def Obligations.HowThePcMoves : Prop :=
  (∀ p : Params, (State.create p).pc = 0) ∧
  ∀ s t : State, s.runState = .running → step s = .next t →
    (t.runState ≠ .running → t.pc = s.pc) ∧
    (t.runState = .running → t.pc = pcBeforeAdvance s (decode s.fetchedWord) + 4)

/-- R107: the advance follows every handler that returns, `jal` and a taken `bne` included, with the consequences for the
immediates 0, -8 and -4: the next instruction, the previous one, and the same one for ever. -/
def Obligations.TheAdvanceFollowsEveryHandler : Prop :=
  (∀ (i : Instr) (s t : State), s.runState = .running → exec i s = .next t → t.runState = .running →
    t.pc = pcBeforeAdvance s i + 4) ∧
  (∀ (rd : RegIdx) (imm : BitVec 20) (s : State), ∃ t, exec (.jal rd imm) s = .next t ∧
    (imm.toInt = 0 → t.pc = s.pc + 4) ∧ (imm.toInt = -8 → t.pc = s.pc - 4)) ∧
  (∀ (rs1 rs2 : RegIdx) (imm : BitVec 12) (s : State), s.x rs1 ≠ s.x rs2 → ∃ t, exec (.bne rs1 rs2 imm) s = .next t ∧
    (imm.toInt = 0 → t.pc = s.pc + 4) ∧ (imm.toInt = -8 → t.pc = s.pc - 4)) ∧
  ∀ (s : State) (n : Nat), s.CanFetch →
    ((∃ rd imm, imm.toInt = -4 ∧ decode s.fetchedWord = .jal rd imm) ∨
      (∃ rs1 rs2 imm, imm.toInt = -4 ∧ decode s.fetchedWord = .bne rs1 rs2 imm ∧ s.x rs1 ≠ s.x rs2)) →
    (run n s).runState = .running ∧ (run n s).pc = s.pc ∧ (run n s).mem = s.mem

/-- The six units, in the order of R98 and by the control table of R100, compose to the step of R92, report included.
The units are the spec's decisions D24 to D26 (log entry 13). -/
def Obligations.UnitsComposeToTheStep : Prop :=
  ∀ s : State, step s = .next (unitStep s).1 ∧ stepReport s = (unitStep s).2

/-! ## Registers (10_state.md) -/

/-- R23: the one write routine, and that an instruction whose destination is x0 leaves x0 to x31 unchanged.
That the source's "register file" is x0 to x31 there is the spec's inference in R23 ("slots 0 to 31, since the pc slot still
advances"). -/
def Obligations.WritesToRegisterZeroAreDiscarded : Prop :=
  (∀ (s : State) (v : Word), s.writeReg 0 v = s) ∧
  (∀ (s : State) (r q : RegIdx) (v : Word), r ≠ 0 → (s.writeReg r v).x q = if q = r then v else s.x q) ∧
  (∀ (i : Instr) (s t : State), destination i = some 0 → exec i s = .next t → ∀ r, t.x r = s.x r)

/-- No instruction changes a general register but its destination in the table of R24.
The table is the spec's inference ("derived: from the handler semantics"). -/
def Obligations.OnlyTheDestinationRegisterChanges : Prop :=
  ∀ (i : Instr) (s t : State), exec i s = .next t → ∀ r, destination i ≠ some r → t.x r = s.x r

/-- An instruction depends on no general register but its sources in the table of R24: two machines that differ only in other
registers take the same change.
The table is the spec's inference ("derived: from the handler semantics"). -/
def Obligations.OnlyTheSourceRegistersMatter : Prop :=
  ∀ (i : Instr) (s s' t t' : State),
    (∀ r ∈ sources i, s.x r = s'.x r) → s.pc = s'.pc → s.mem = s'.mem → s.runState = .running → s'.runState = .running →
    s.faultRecord = s'.faultRecord → s.params = s'.params → exec i s = .next t → exec i s' = .next t' →
    t.pc = t'.pc ∧ t.mem = t'.mem ∧ t.runState = t'.runState ∧ t.faultRecord = t'.faultRecord ∧ t.params = t'.params ∧
    (t.runState = .running → ∀ r, r ≠ 0 → destination i = some r → t.x r = t'.x r)

/-- Any 32-bit constant is built by `lui` and `addi`, by the formula of R160's corner case 6.
The shift of a negative immediate is the spec's decision D28 (log entry 5). -/
def Obligations.LuiThenAddiBuildsAnyConstant : Prop :=
  ∀ (k : Word) (rd : RegIdx) (s : State), rd ≠ 0 →
    ∃ t u, exec (.lui rd (((k - (k.extractLsb' 0 12).signExtend 32) >>> 12).setWidth 20)) s = .next t ∧
      exec (.addi rd rd (k.extractLsb' 0 12)) t = .next u ∧ u.x rd = k ∧ u.pc = s.pc + 8

/-! ## Memory (20_memory.md) -/

/-- R40 to R42 in arithmetic: the check passes for the multiples of 4 below 4 * MEM_WORDS, and each names one word.
The range test and the order are the spec's decisions D11 and D15 (log entry 5). -/
def Obligations.CheckAcceptsTheWordsOfMemory : Prop :=
  ∀ (n : Nat) (a : Word),
    (∀ k, checkAddress n a = .ok k ↔ a.toNat = 4 * k ∧ k < n) ∧
    (checkAddress n a = .misaligned ↔ a.toNat % 4 ≠ 0) ∧
    (checkAddress n a = .outOfRange ↔ a.toNat % 4 = 0 ∧ 4 * n ≤ a.toNat)

/-- R43: MemRead, case by case; the kinds of a fetch and of the reads of `lw` and `get`; no read changes memory.
The range test and its order, the check of a fetch and the state after a fault are the spec's decisions D11, D15, D16 and D14
(log entry 5). -/
def Obligations.MemReadReturnsTheWordOrItsFault : Prop :=
  ∀ s : State,
    (∀ (kind : AccessKind) (a : Word),
      (s.Accessible a → s.memRead kind a = .ok (s.mem.read (wordIndex a))) ∧
      (a.extractLsb' 0 2 ≠ 0 → s.memRead kind a = .error (.misalignedAccess kind a)) ∧
      (a.extractLsb' 0 2 = 0 → s.params.memWords ≤ wordIndex a → s.memRead kind a = .error (.accessOutOfRange kind a))) ∧
    (s.runState = .running → ∀ f, s.memRead .fetch s.pc = .error f → ∃ t, step s = .next t ∧ FaultTaken s t f) ∧
    (∀ (rd rs1 : RegIdx) (imm : BitVec 12), ∃ t, exec (.lw rd rs1 imm) s = .next t ∧ t.mem = s.mem ∧
      ∀ f, s.memRead .dataRead (s.x rs1 + imm.signExtend 32) = .error f → FaultTaken s t f) ∧
    (∀ value base offset : RegIdx, ∃ t, exec (.get value base offset) s = .next t ∧ t.mem = s.mem ∧
      ∀ f, s.memRead .dataRead (s.x base + s.x offset) = .error f → FaultTaken s t f)

/-- R44: MemWrite, case by case: a write that succeeds replaces exactly one word.
The range test and alignment before range are the spec's decisions D11 and D15 (log entry 5). -/
def Obligations.MemWriteReplacesExactlyOneWord : Prop :=
  ∀ (s : State) (a v : Word),
    (s.Accessible a → ∃ t, s.memWrite a v = .ok t ∧ t.pc = s.pc ∧ OnlyMemory s t a v ∧
      ∀ kind, t.memRead kind a = .ok v) ∧
    (a.extractLsb' 0 2 ≠ 0 → s.memWrite a v = .error (.misalignedAccess .dataWrite a)) ∧
    (a.extractLsb' 0 2 = 0 → s.params.memWords ≤ wordIndex a →
      s.memWrite a v = .error (.accessOutOfRange .dataWrite a))

/-- Of all instructions only `put` and `sw` change memory, and they change no word but the one at the address they compute. -/
def Obligations.OnlyStoresChangeMemory : Prop :=
  ∀ (i : Instr) (s t : State), exec i s = .next t →
    (storeOf s i = none → t.mem = s.mem) ∧
    (∀ a v, storeOf s i = some (a, v) →
      (∀ k, k ≠ wordIndex a → t.mem.read k = s.mem.read k) ∧
      (¬ s.Accessible a → t.mem = s.mem) ∧
      (s.Accessible a → t.mem.read (wordIndex a) = v))

/-- A stored word is what every later fetch of its address runs, the very next step's included (R53).
The spec's decision D32 (log entry 5). -/
def Obligations.StoresAreSeenByLaterFetches : Prop :=
  ∀ (i : Instr) (s t u : State) (a v : Word),
    storeOf s i = some (a, v) → s.Accessible a → exec i s = .next t →
    u.mem = t.mem → u.params = t.params → u.runState = .running → u.pc = a →
    step u = exec (decode v) u

/-- Memories in the canonical form that read alike are the same list. The form is the model's own (log entry 7). -/
def Obligations.CanonicalMemoriesThatReadAlikeAreEqual : Prop :=
  ∀ m m' : Memory, m.wf → m'.wf → (∀ k, m.read k = m'.read k) → m = m'

/-! ## Faults (60_exceptions.md) -/

/-- R186: fault entry. Nothing but run_state and fault_record changes, the step reports NO_PROGRESS and run returns.
The spec's decision D14 (log entry 5). -/
def Obligations.FaultEntryChangesNothingElse : Prop :=
  ∀ s t : State, s.runState = .running → step s = .next t → t.runState = .faulted →
    (∃ f, FaultTaken s t f) ∧ stepReport s = .noProgress ∧ ∀ n, run (n + 1) s = t

/-- R182 with the order of R190: a step faults exactly as the table says, with that record, and the codes are 1, 2, 3.
The codes, the records, the two added faults and the order are the spec's decisions D37, D8, D11, D15 (log entry 5). -/
def Obligations.FaultsAreExactlyThoseOfTheTable : Prop :=
  (∀ s t : State, s.runState = .running → step s = .next t →
    (∀ f, stepFault s = some f → FaultTaken s t f) ∧
    (stepFault s = none → t.runState ≠ .faulted ∧ t.faultRecord = s.faultRecord)) ∧
  (∀ kind a, Fault.code (.misalignedAccess kind a) = 1) ∧
  (∀ kind a, Fault.code (.accessOutOfRange kind a) = 2) ∧
  (∀ w, Fault.code (.illegalOpcode w) = 3)

/-! ## Reset and invariants -/

/-- R33: the values after creation, for every machine, and that State.reset is a created machine.
RUNNING and the empty record are the spec's decisions D27 and D14 (log entry 5). -/
def Obligations.CreationZeroesRegistersPcAndMemory : Prop :=
  (∃ p : Params, State.reset = State.create p) ∧
  ∀ p : Params, (∀ r, (State.create p).x r = 0) ∧ (State.create p).pc = 0 ∧
    (∀ k, (State.create p).mem.read k = 0) ∧ (State.create p).runState = .running ∧
    (State.create p).faultRecord = none

/-- A created machine with legal parameters meets the invariant, and State.reset is one.
The canonical form and the parameters as fields are the model's (log entries 1 and 7). -/
def Obligations.CreatedMachinesMeetTheInvariant : Prop :=
  (∀ p : Params, p.wf → (State.create p).Inv) ∧ State.reset.Inv

/-- Every step keeps the invariant.
The canonical form and the parameters as fields are the model's (log entries 1 and 7). -/
def Obligations.EveryStepKeepsTheInvariant : Prop :=
  ∀ s t : State, s.Inv → step s = .next t → t.Inv

/-- R34: MEM_WORDS, UNMAPPED_FUNCT_POLICY and LINK_INC are fixed for the life of a machine.
That they are no state is the spec's inference in R34; that a machine carries them is the model's choice (log entry 1). -/
def Obligations.ParametersNeverChange : Prop :=
  (∀ s t : State, step s = .next t → t.params = s.params) ∧
  (∀ (offset : Word) (words : List Word) (s t : State), load offset words s = some t → t.params = s.params) ∧
  (∀ (n : Nat) (s : State), (run n s).params = s.params)

/-! ## The host (70_reset_and_hazards.md) -/

/-- R203: a load is refused whole unless it is aligned and fits; else it writes its words and nothing else.
The refused load is the spec's decision D22 (log entry 5). -/
def Obligations.LoadWritesItsWordsAndNothingElse : Prop :=
  ∀ (offset : Word) (words : List Word) (s : State),
    (load offset words s = none ↔
      ¬ (offset.extractLsb' 0 2 = 0 ∧ wordIndex offset + words.length ≤ s.params.memWords)) ∧
    ∀ t, load offset words s = some t →
      (∀ (i : Nat) (h : i < words.length), t.mem.read (wordIndex offset + i) = words[i]) ∧
      (∀ k, k < wordIndex offset ∨ wordIndex offset + words.length ≤ k → t.mem.read k = s.mem.read k) ∧
      (∀ r, t.x r = s.x r) ∧ t.pc = s.pc ∧ t.runState = s.runState ∧ t.faultRecord = s.faultRecord

/-- The host's load keeps the invariant too.
The canonical form and the parameters as fields are the model's (log entries 1 and 7). -/
def Obligations.LoadKeepsTheInvariant : Prop :=
  ∀ (offset : Word) (words : List Word) (s t : State), s.Inv → load offset words s = some t → t.Inv

/-- A run is that many steps of the host's own machine: stopping early at HALTED or FAULTED makes no difference (R91, R94).
The spec's decision D23 (log entry 5). -/
def Obligations.RunIsThatManySteps : Prop :=
  ∀ (n : Nat) (s : State), Host.Core.run Sys2Proof.core n s = .next (run n s)

/-- R94: run stops at the first step that reports no progress, or when its budget of steps is used up, and not before.
That the stopping call counts is the spec's decision D33 (log entry 5). -/
def Obligations.RunStopsAtNoProgressOrItsBudget : Prop :=
  ∀ (n : Nat) (s : State),
    run 0 s = s ∧
    (stepReport s = .noProgress → step s = .next (run (n + 1) s)) ∧
    (∀ t, stepReport s = .progress → step s = .next t → run (n + 1) s = run n t)

/-- Two runs one after the other are one run with the sum of the budgets.
The spec's decisions D23 and D33 (log entry 5). -/
def Obligations.BudgetsAdd : Prop :=
  ∀ (m n : Nat) (s : State), run (m + n) s = run n (run m s)

/-- A machine that stopped cannot be made to run again by a load (R204).
The spec's decision D34 (log entry 5). -/
def Obligations.LoadDoesNotRestartAStoppedMachine : Prop :=
  ∀ (offset : Word) (words : List Word) (s t : State) (n : Nat), s.runState ≠ .running →
    load offset words s = some t → run n t = t ∧ t.runState = s.runState

/-! ## The assembler's map (30_encoding.md) -/

/-- R66 to R68: an operand is accepted exactly in its range, and the field keeps its value.
That 32 is refused is the spec's decision D2; what a number is, is the model's (log entries 5 and 11). -/
def Obligations.OperandsAreAcceptedExactlyInRange : Prop :=
  (∀ n : Nat, (regOfIndex n = none ↔ 32 ≤ n) ∧ ∀ r, regOfIndex n = some r → r.val = n) ∧
  (∀ v : Int, (imm12OfInt v = none ↔ v < -2048 ∨ 2047 < v) ∧ ∀ b, imm12OfInt v = some b → b.toInt = v) ∧
  (∀ v : Int, (imm20OfInt v = none ↔ v < -524288 ∨ 524287 < v) ∧ ∀ b, imm20OfInt v = some b → b.toInt = v)

/-- Every word an assembly gives is the canonical word of one of the twelve instructions, and decodes to it.
The text conventions are the model's (log entry 11). -/
def Obligations.AssembledWordsDecodeToMappedInstructions : Prop :=
  ∀ (src : List Char) (ws : List Word), assemble src = .ok ws → ∀ w ∈ ws,
    w = encode (decode w) ∧ decode w ∉ unmappedForms w ∧ decode w ∉ illegalForms w

/-- R84: `set xD imm12` assembles to the word of `addi xD x0 imm12`, or fails with the same error; every mnemonic but the twelve of
R83 and `set` is unknown, so `nop`, `mv`, `li`, `j` and `ret` are.
The expansion of `set` and the spellings `lw` and `lui` are the spec's decisions D19 and D20 (log entry 5). -/
def Obligations.SetIsTheOnlyPseudoInstruction : Prop :=
  (∀ d v : List Char, asmInstr ['s', 'e', 't'] [d, v] = asmInstr ['a', 'd', 'd', 'i'] [d, ['x', '0'], v]) ∧
  (∀ m : List Char, m ∉ asmMnemonics → ∀ operands, asmInstr m operands = .error (.unknownMnemonic m))

/-- R66, R192: the encoder refuses a term exactly where it breaks a precondition, an opcode of 11 or more or a word of another row,
and a word it gives has an opcode of 0 to 10 and decodes to the term.
That a term may carry a word of another row is the model's own choice (log entry 12); the numbers of the opcodes are the spec's
decision D5 (log entry 6). -/
def Obligations.TheEncoderRefusesExactlyWhatHasNoWord : Prop :=
  ∀ i : Instr,
    (encodeChecked i = none ↔ ¬ i.WellFormed ∨ ∃ w, i ∈ illegalForms w) ∧
    ∀ w, encodeChecked i = some w → (w.extractLsb' 0 7).toNat ≤ 10 ∧ decode w = i
end

