-- ==== Sys2Proof/Laws/Memory.lean ====
section
/-! SUPPORT. The memory array: read after write, and that every operation on it keeps the canonical form. -/

namespace Sys2Proof.Machine

@[simp] theorem Memory.read_nil (k : Nat) : Memory.read [] k = 0 := rfl

theorem Memory.read_erase (m : Memory) (k j : Nat) :
    Memory.read (Memory.erase k m) j = if j = k then 0 else Memory.read m j := by
  induction m with
  | nil => simp [Memory.erase]
  | cons p m ih =>
    obtain ⟨a, u⟩ := p
    simp only [Memory.erase, Memory.read]
    split <;> grind [Memory.read]

theorem Memory.read_insert (m : Memory) (k j : Nat) (v : Word) (hk : ∀ p ∈ m, p.1 ≠ k) :
    Memory.read (Memory.insert k v m) j = if j = k then v else Memory.read m j := by
  induction m with
  | nil => simp [Memory.insert, Memory.read, eq_comm]
  | cons p m ih =>
    obtain ⟨a, u⟩ := p
    simp only [Memory.insert]
    have hak : a ≠ k := hk (a, u) (by simp)
    have := ih (fun q hq => hk q (by simp [hq]))
    split <;> grind [Memory.read]

theorem Memory.not_mem_erase (m : Memory) (k : Nat) : ∀ p ∈ Memory.erase k m, p.1 ≠ k := by
  induction m with
  | nil => simp [Memory.erase]
  | cons p m ih =>
    obtain ⟨a, u⟩ := p
    simp only [Memory.erase]
    split
    · exact ih
    · intro q hq
      rcases List.mem_cons.1 hq with rfl | hq
      · assumption
      · exact ih q hq

theorem Memory.mem_of_mem_erase (m : Memory) (k : Nat) : ∀ p ∈ Memory.erase k m, p ∈ m := by
  induction m with
  | nil => simp [Memory.erase]
  | cons p m ih =>
    obtain ⟨a, u⟩ := p
    simp only [Memory.erase]
    split
    · intro q hq; exact List.mem_cons_of_mem _ (ih q hq)
    · intro q hq
      rcases List.mem_cons.1 hq with rfl | hq
      · simp
      · exact List.mem_cons_of_mem _ (ih q hq)

theorem Memory.mem_insert (m : Memory) (k : Nat) (v : Word) :
    ∀ p ∈ Memory.insert k v m, p = (k, v) ∨ p ∈ m := by
  induction m with
  | nil => simp [Memory.insert]
  | cons p m ih =>
    obtain ⟨a, u⟩ := p
    simp only [Memory.insert]
    split
    · intro q hq; simpa using hq
    · intro q hq
      rcases List.mem_cons.1 hq with rfl | hq
      · simp
      · rcases ih q hq with h | h
        · exact .inl h
        · exact .inr (List.mem_cons_of_mem _ h)

/-- Read after write, at every index. -/
theorem Memory.read_write (m : Memory) (k j : Nat) (v : Word) :
    (m.write k v).read j = if j = k then v else m.read j := by
  unfold Memory.write
  split
  · rename_i h; rw [Memory.read_erase, h]
  · rw [Memory.read_insert _ _ _ _ (Memory.not_mem_erase m k), Memory.read_erase]
    split <;> rfl

@[simp] theorem Memory.read_write_self (m : Memory) (k : Nat) (v : Word) : (m.write k v).read k = v := by
  simp [Memory.read_write]

theorem Memory.read_write_other (m : Memory) {k j : Nat} (v : Word) (h : j ≠ k) : (m.write k v).read j = m.read j := by
  simp [Memory.read_write, h]

/-- Only the written index can be new on the list. -/
theorem Memory.mem_write (m : Memory) (k : Nat) (v : Word) : ∀ p ∈ m.write k v, p.1 = k ∨ p ∈ m := by
  intro p hp
  unfold Memory.write at hp
  split at hp
  · exact .inr (Memory.mem_of_mem_erase m k p hp)
  · rcases Memory.mem_insert _ _ _ p hp with rfl | h
    · exact .inl rfl
    · exact .inr (Memory.mem_of_mem_erase m k p h)

theorem Memory.wf_nil : Memory.wf [] := by simp [Memory.wf]

theorem Memory.wf_erase {m : Memory} (h : m.wf) (k : Nat) : Memory.wf (Memory.erase k m) := by
  refine ⟨?_, fun p hp => h.2 p (Memory.mem_of_mem_erase m k p hp)⟩
  have hp := h.1
  clear h
  induction m with
  | nil => simp [Memory.erase]
  | cons p m ih =>
    obtain ⟨a, u⟩ := p
    rw [List.pairwise_cons] at hp
    simp only [Memory.erase]
    split
    · exact ih hp.2
    · exact List.pairwise_cons.2 ⟨fun q hq => hp.1 q (Memory.mem_of_mem_erase m k q hq), ih hp.2⟩

theorem Memory.sorted_insert {m : Memory} (h : m.Pairwise (fun p q => p.1 < q.1)) (k : Nat) (v : Word)
    (hk : ∀ p ∈ m, p.1 ≠ k) : (Memory.insert k v m).Pairwise (fun p q => p.1 < q.1) := by
  induction m with
  | nil => simp [Memory.insert]
  | cons p m ih =>
    obtain ⟨a, u⟩ := p
    rw [List.pairwise_cons] at h
    have hak : a ≠ k := hk (a, u) (by simp)
    simp only [Memory.insert]
    split
    · rename_i hlt
      refine List.pairwise_cons.2 ⟨?_, List.pairwise_cons.2 h⟩
      intro q hq
      rcases List.mem_cons.1 hq with rfl | hq
      · exact hlt
      · exact Nat.lt_trans hlt (h.1 q hq)
    · rename_i hlt
      refine List.pairwise_cons.2 ⟨?_, ih h.2 (fun q hq => hk q (by simp [hq]))⟩
      intro q hq
      rcases Memory.mem_insert _ _ _ q hq with rfl | hq
      · simp only; omega
      · exact h.1 q hq

/-- A write keeps the canonical form. -/
theorem Memory.wf_write {m : Memory} (h : m.wf) (k : Nat) (v : Word) : (m.write k v).wf := by
  have he := Memory.wf_erase h k
  unfold Memory.write
  split
  · exact he
  · rename_i hv
    refine ⟨Memory.sorted_insert he.1 k v (Memory.not_mem_erase m k), ?_⟩
    intro p hp
    rcases Memory.mem_insert _ _ _ p hp with rfl | hp
    · exact hv
    · exact he.2 p hp

/-- So does a sequence of writes (the host's load). -/
theorem Memory.wf_writeList {m : Memory} (h : m.wf) (k : Nat) (ws : List Word) : (m.writeList k ws).wf := by
  induction ws generalizing m k with
  | nil => exact h
  | cons v ws ih => exact ih (Memory.wf_write h k v) (k + 1)

/-- Everything a sequence of writes does. -/
theorem Memory.read_writeList (m : Memory) (k j : Nat) (ws : List Word) :
    (m.writeList k ws).read j = if k ≤ j ∧ j < k + ws.length then ws.getD (j - k) 0 else m.read j := by
  induction ws generalizing m k with
  | nil => simp [Memory.writeList]
  | cons v ws ih =>
    simp only [Memory.writeList, ih, Memory.read_write, List.length_cons]
    by_cases hj : j = k
    · subst hj; simp
    · by_cases h1 : k + 1 ≤ j ∧ j < k + 1 + ws.length
      · have h2 : k ≤ j ∧ j < k + (ws.length + 1) := by omega
        have h3 : j - k = (j - (k + 1)) + 1 := by omega
        rw [if_pos h1, if_pos h2, h3, List.getD_cons_succ]
      · have h2 : ¬(k ≤ j ∧ j < k + (ws.length + 1)) := by omega
        rw [if_neg h1, if_neg h2, if_neg hj]

theorem Memory.mem_writeList (m : Memory) (k : Nat) (ws : List Word) :
    ∀ p ∈ m.writeList k ws, p.1 < k + ws.length ∨ p ∈ m := by
  induction ws generalizing m k with
  | nil => intro p hp; exact .inr hp
  | cons v ws ih =>
    intro p hp
    rcases ih (m.write k v) (k + 1) p hp with h | h
    · left; simp only [List.length_cons]; omega
    · rcases Memory.mem_write m k v p h with h | h
      · left; simp only [List.length_cons]; omega
      · exact .inr h

end Sys2Proof.Machine
end

