-- ==== Sys2Proof/Laws/State.lean ====
section
/-! SUPPORT. What each update of State does to each field, by rfl, so that no later proof unfolds a record update. -/

namespace Sys2Proof.Machine

section Raise
variable (s : State) (f : Fault)
@[simp] theorem State.raise_regs : (s.raise f).regs = s.regs := rfl
@[simp] theorem State.raise_pc : (s.raise f).pc = s.pc := rfl
@[simp] theorem State.raise_mem : (s.raise f).mem = s.mem := rfl
@[simp] theorem State.raise_runState : (s.raise f).runState = .faulted := rfl
@[simp] theorem State.raise_faultRecord : (s.raise f).faultRecord = some f := rfl
@[simp] theorem State.raise_params : (s.raise f).params = s.params := rfl
@[simp] theorem State.raise_x (r : RegIdx) : (s.raise f).x r = s.x r := rfl
end Raise

section Halt
variable (s : State)
@[simp] theorem State.halt_regs : s.halt.regs = s.regs := rfl
@[simp] theorem State.halt_pc : s.halt.pc = s.pc := rfl
@[simp] theorem State.halt_mem : s.halt.mem = s.mem := rfl
@[simp] theorem State.halt_runState : s.halt.runState = .halted := rfl
@[simp] theorem State.halt_faultRecord : s.halt.faultRecord = s.faultRecord := rfl
@[simp] theorem State.halt_params : s.halt.params = s.params := rfl
@[simp] theorem State.halt_x (r : RegIdx) : s.halt.x r = s.x r := rfl
end Halt

section SetPc
variable (s : State) (v : Word)
@[simp] theorem State.setPc_regs : (s.setPc v).regs = s.regs := rfl
@[simp] theorem State.setPc_pc : (s.setPc v).pc = v := rfl
@[simp] theorem State.setPc_mem : (s.setPc v).mem = s.mem := rfl
@[simp] theorem State.setPc_runState : (s.setPc v).runState = s.runState := rfl
@[simp] theorem State.setPc_faultRecord : (s.setPc v).faultRecord = s.faultRecord := rfl
@[simp] theorem State.setPc_params : (s.setPc v).params = s.params := rfl
@[simp] theorem State.setPc_x (r : RegIdx) : (s.setPc v).x r = s.x r := rfl
@[simp] theorem State.setPc_setPc (u : Word) : (s.setPc u).setPc v = s.setPc v := rfl
@[simp] theorem State.setPc_self : s.setPc s.pc = s := rfl
end SetPc

section Advance
variable (s : State)
@[simp] theorem State.advance_regs : s.advance.regs = s.regs := rfl
@[simp] theorem State.advance_pc : s.advance.pc = s.pc + 4 := rfl
@[simp] theorem State.advance_mem : s.advance.mem = s.mem := rfl
@[simp] theorem State.advance_runState : s.advance.runState = s.runState := rfl
@[simp] theorem State.advance_faultRecord : s.advance.faultRecord = s.faultRecord := rfl
@[simp] theorem State.advance_params : s.advance.params = s.params := rfl
@[simp] theorem State.advance_x (r : RegIdx) : s.advance.x r = s.x r := rfl
end Advance

section WriteReg
variable (s : State) (r : RegIdx) (v : Word)
@[simp] theorem State.writeReg_zero : s.writeReg 0 v = s := rfl
@[simp] theorem State.writeReg_pc : (s.writeReg r v).pc = s.pc := by unfold State.writeReg; split <;> rfl
@[simp] theorem State.writeReg_mem : (s.writeReg r v).mem = s.mem := by unfold State.writeReg; split <;> rfl
@[simp] theorem State.writeReg_runState : (s.writeReg r v).runState = s.runState := by
  unfold State.writeReg; split <;> rfl
@[simp] theorem State.writeReg_faultRecord : (s.writeReg r v).faultRecord = s.faultRecord := by
  unfold State.writeReg; split <;> rfl
@[simp] theorem State.writeReg_params : (s.writeReg r v).params = s.params := by
  unfold State.writeReg; split <;> rfl

/-- Everything the write routine does to the registers. -/
theorem State.writeReg_x (q : RegIdx) : (s.writeReg r v).x q = if q = r ∧ r ≠ 0 then v else s.x q := by
  unfold State.writeReg State.x
  by_cases h0 : r = 0
  · simp [h0]
  · by_cases hq : q = r
    · subst hq; simp [h0]
    · have : r.val ≠ q.val := fun h => hq (Fin.ext h.symm)
      simp [h0, hq, this]

@[simp] theorem State.writeReg_x_self (h : r ≠ 0) : (s.writeReg r v).x r = v := by simp [State.writeReg_x, h]
@[simp] theorem State.writeReg_x_zero : (s.writeReg r v).x 0 = s.x 0 := by
  rw [State.writeReg_x]; split
  · rename_i h; exact absurd h.1.symm h.2
  · rfl
theorem State.writeReg_x_other (q : RegIdx) (h : q ≠ r) : (s.writeReg r v).x q = s.x q := by
  simp [State.writeReg_x, h]
end WriteReg

section WriteBack
variable (s : State) (r : RegIdx) (v : Word)
@[simp] theorem State.writeBack_pc : (s.writeBack r v).pc = s.pc + 4 := by simp [State.writeBack]
@[simp] theorem State.writeBack_mem : (s.writeBack r v).mem = s.mem := by simp [State.writeBack]
@[simp] theorem State.writeBack_runState : (s.writeBack r v).runState = s.runState := by simp [State.writeBack]
@[simp] theorem State.writeBack_faultRecord : (s.writeBack r v).faultRecord = s.faultRecord := by
  simp [State.writeBack]
@[simp] theorem State.writeBack_params : (s.writeBack r v).params = s.params := by simp [State.writeBack]
@[simp] theorem State.writeBack_x (q : RegIdx) : (s.writeBack r v).x q = (s.writeReg r v).x q := by
  simp [State.writeBack]
theorem State.writeBack_eq : s.writeBack r v = (s.writeReg r v).setPc (s.pc + 4) := by
  simp [State.writeBack, State.advance]
end WriteBack

section WithMem
variable (s : State) (m : Memory)
@[simp] theorem State.withMem_x (r : RegIdx) : ({ s with mem := m } : State).x r = s.x r := rfl
end WithMem

/-- Two states with the same fields are the same state. -/
theorem State.ext_fields {s t : State} (hx : ∀ r, s.x r = t.x r) (hpc : s.pc = t.pc) (hm : s.mem = t.mem)
    (hr : s.runState = t.runState) (hf : s.faultRecord = t.faultRecord) (hp : s.params = t.params) : s = t := by
  cases s; cases t
  simp only at *
  subst hpc hm hr hf hp
  congr
  exact Vector.ext fun i hi => hx ⟨i, hi⟩

end Sys2Proof.Machine
end

