-- ==== Sys2Proof/Laws/Access.lean ====
section
/-! SUPPORT. Everything an access can do (20_memory.md R42 to R45), and everything the shared ends of a handler can answer. -/

namespace Sys2Proof.Machine

theorem checkAddress_ok {n : Nat} {a : Word} (h0 : a.extractLsb' 0 2 = 0) (h1 : wordIndex a < n) :
    checkAddress n a = .ok (wordIndex a) := by
  simp [checkAddress, h0, Nat.not_le.2 h1]

theorem checkAddress_misaligned {n : Nat} {a : Word} (h : a.extractLsb' 0 2 ≠ 0) : checkAddress n a = .misaligned := if_pos h

theorem checkAddress_outOfRange {n : Nat} {a : Word} (h0 : a.extractLsb' 0 2 = 0) (h1 : n ≤ wordIndex a) :
    checkAddress n a = .outOfRange := by
  simp [checkAddress, h0, h1]

/-- Check(a) answers one of three things, each under its own condition. -/
theorem checkAddress_cases (n : Nat) (a : Word) :
    (a.extractLsb' 0 2 = 0 ∧ wordIndex a < n ∧ checkAddress n a = .ok (wordIndex a)) ∨
    (a.extractLsb' 0 2 ≠ 0 ∧ checkAddress n a = .misaligned) ∨
    (a.extractLsb' 0 2 = 0 ∧ n ≤ wordIndex a ∧ checkAddress n a = .outOfRange) := by
  by_cases h0 : a.extractLsb' 0 2 = 0
  · rcases Nat.lt_or_ge (wordIndex a) n with h1 | h1
    · exact .inl ⟨h0, h1, checkAddress_ok h0 h1⟩
    · exact .inr (.inr ⟨h0, h1, checkAddress_outOfRange h0 h1⟩)
  · exact .inr (.inl ⟨h0, checkAddress_misaligned h0⟩)

/-- Everything MemRead can answer. -/
theorem memRead_cases (s : State) (kind : AccessKind) (a : Word) :
    (a.extractLsb' 0 2 = 0 ∧ wordIndex a < s.params.memWords ∧ s.memRead kind a = .ok (s.mem.read (wordIndex a))) ∨
    (a.extractLsb' 0 2 ≠ 0 ∧ s.memRead kind a = .error (.misalignedAccess kind a)) ∨
    (a.extractLsb' 0 2 = 0 ∧ s.params.memWords ≤ wordIndex a ∧
      s.memRead kind a = .error (.accessOutOfRange kind a)) := by
  unfold State.memRead
  rcases checkAddress_cases s.params.memWords a with ⟨h0, h1, h⟩ | ⟨h0, h⟩ | ⟨h0, h1, h⟩
  · exact .inl ⟨h0, h1, by rw [h]⟩
  · exact .inr (.inl ⟨h0, by rw [h]⟩)
  · exact .inr (.inr ⟨h0, h1, by rw [h]⟩)

/-- Everything MemWrite can answer. -/
theorem memWrite_cases (s : State) (a v : Word) :
    (a.extractLsb' 0 2 = 0 ∧ wordIndex a < s.params.memWords ∧
      s.memWrite a v = .ok { s with mem := s.mem.write (wordIndex a) v }) ∨
    (a.extractLsb' 0 2 ≠ 0 ∧ s.memWrite a v = .error (.misalignedAccess .dataWrite a)) ∨
    (a.extractLsb' 0 2 = 0 ∧ s.params.memWords ≤ wordIndex a ∧
      s.memWrite a v = .error (.accessOutOfRange .dataWrite a)) := by
  unfold State.memWrite
  rcases checkAddress_cases s.params.memWords a with ⟨h0, h1, h⟩ | ⟨h0, h⟩ | ⟨h0, h1, h⟩
  · exact .inl ⟨h0, h1, by rw [h]⟩
  · exact .inr (.inl ⟨h0, by rw [h]⟩)
  · exact .inr (.inr ⟨h0, h1, by rw [h]⟩)

/-- Everything a load can answer. -/
theorem loadInto_cases (rd : RegIdx) (a : Word) (s : State) :
    (a.extractLsb' 0 2 = 0 ∧ wordIndex a < s.params.memWords ∧
      loadInto rd a s = .next (s.writeBack rd (s.mem.read (wordIndex a)))) ∨
    (a.extractLsb' 0 2 ≠ 0 ∧ loadInto rd a s = .next (s.raise (.misalignedAccess .dataRead a))) ∨
    (a.extractLsb' 0 2 = 0 ∧ s.params.memWords ≤ wordIndex a ∧
      loadInto rd a s = .next (s.raise (.accessOutOfRange .dataRead a))) := by
  unfold loadInto
  rcases memRead_cases s .dataRead a with ⟨h0, h1, h⟩ | ⟨h0, h⟩ | ⟨h0, h1, h⟩
  · exact .inl ⟨h0, h1, by rw [h]⟩
  · exact .inr (.inl ⟨h0, by rw [h]⟩)
  · exact .inr (.inr ⟨h0, h1, by rw [h]⟩)

/-- Everything a store can answer. -/
theorem storeAt_cases (a v : Word) (s : State) :
    (a.extractLsb' 0 2 = 0 ∧ wordIndex a < s.params.memWords ∧
      storeAt a v s = .next (State.advance { s with mem := s.mem.write (wordIndex a) v })) ∨
    (a.extractLsb' 0 2 ≠ 0 ∧ storeAt a v s = .next (s.raise (.misalignedAccess .dataWrite a))) ∨
    (a.extractLsb' 0 2 = 0 ∧ s.params.memWords ≤ wordIndex a ∧
      storeAt a v s = .next (s.raise (.accessOutOfRange .dataWrite a))) := by
  unfold storeAt
  rcases memWrite_cases s a v with ⟨h0, h1, h⟩ | ⟨h0, h⟩ | ⟨h0, h1, h⟩
  · exact .inl ⟨h0, h1, by rw [h]⟩
  · exact .inr (.inl ⟨h0, by rw [h]⟩)
  · exact .inr (.inr ⟨h0, h1, by rw [h]⟩)

/-- Everything an unmapped funct can answer. -/
theorem unmappedFunct_cases (w : Word) (s : State) :
    (s.params.unmappedPolicy = .nop ∧ unmappedFunct w s = .next s.advance) ∨
    (s.params.unmappedPolicy = .fault ∧ unmappedFunct w s = .next (s.raise (.illegalOpcode w))) := by
  unfold unmappedFunct
  cases h : s.params.unmappedPolicy <;> simp

end Sys2Proof.Machine
end

