-- ==== Sys2Proof/Laws/Exec.lean ====
section
/-! SUPPORT. Everything an instruction, and a step, can do to the state, said once. -/

namespace Sys2Proof.Machine

/-- The changes an instruction can make. -/
inductive Effect (s : State) : State → Prop where
  /-- `hlt`. -/
  | halts : Effect s s.halt
  /-- A fault's entry. -/
  | faults (f : Fault) : Effect s (s.raise f)
  /-- A register write and a new pc. -/
  | writes (rd : RegIdx) (v p : Word) : Effect s ((s.writeReg rd v).setPc p)
  /-- A store to an accessible word, and the advance. -/
  | stores (k : Nat) (v : Word) (hk : k < s.params.memWords) :
      Effect s (State.advance { s with mem := s.mem.write k v })
  /-- A new pc and nothing else. -/
  | moves (p : Word) : Effect s (s.setPc p)

theorem loadInto_effect {rd : RegIdx} {a : Word} {s t : State} (h : loadInto rd a s = .next t) : Effect s t := by
  rcases loadInto_cases rd a s with ⟨-, -, e⟩ | ⟨-, e⟩ | ⟨-, -, e⟩ <;> rw [e] at h <;> cases h
  · rw [State.writeBack_eq]; exact .writes ..
  · exact .faults _
  · exact .faults _

theorem storeAt_effect {a v : Word} {s t : State} (h : storeAt a v s = .next t) : Effect s t := by
  rcases storeAt_cases a v s with ⟨-, hk, e⟩ | ⟨-, e⟩ | ⟨-, -, e⟩ <;> rw [e] at h <;> cases h
  · exact .stores _ _ hk
  · exact .faults _
  · exact .faults _

theorem unmappedFunct_effect {w : Word} {s t : State} (h : unmappedFunct w s = .next t) : Effect s t := by
  rcases unmappedFunct_cases w s with ⟨-, e⟩ | ⟨-, e⟩ <;> rw [e] at h <;> cases h
  · exact .moves _
  · exact .faults _

theorem writeBack_effect {rd : RegIdx} {v : Word} {s t : State}
    (h : (Host.Outcome.next (s.writeBack rd v) : Answer) = .next t) : Effect s t := by
  cases h; rw [State.writeBack_eq]; exact .writes ..

/-- If an instruction answers a next state, it made one of these changes. -/
theorem exec_effect {i : Instr} {s t : State} (h : exec i s = .next t) : Effect s t := by
  cases i
  case hlt => cases h; exact .halts
  case put => exact storeAt_effect h
  case get => exact loadInto_effect h
  case addi => exact writeBack_effect h
  case slti => exact writeBack_effect h
  case add => exact writeBack_effect h
  case mlt => exact writeBack_effect h
  case bne rs1 rs2 imm =>
    simp only [exec, execBne] at h
    split at h <;> cases h <;> exact .moves _
  case jal => cases h; exact .writes ..
  case lui => exact writeBack_effect h
  case lw => exact loadInto_effect h
  case sw => exact storeAt_effect h
  all_goals first
    | exact unmappedFunct_effect h
    | (cases h; exact .faults _)

/-- Everything a step can answer. -/
theorem step_cases {s t : State} (h : step s = .next t) :
    (s.runState ≠ .running ∧ t = s) ∨
    (s.runState = .running ∧ ∃ f, s.fetch = .error f ∧ t = s.raise f) ∨
    (s.runState = .running ∧ ∃ w, s.fetch = .ok w ∧ exec (decode w) s = .next t) := by
  unfold step at h
  cases hr : s.runState <;> simp only [hr] at h
  · cases hf : s.fetch with
    | error f => rw [hf] at h; cases h; exact .inr (.inl ⟨rfl, f, rfl, rfl⟩)
    | ok w => rw [hf] at h; exact .inr (.inr ⟨rfl, w, rfl, h⟩)
  · cases h; exact .inl ⟨by simp, rfl⟩
  · cases h; exact .inl ⟨by simp, rfl⟩

/-- A step changes the state by one of the effects, or not at all. -/
theorem step_effect {s t : State} (h : step s = .next t) : t = s ∨ Effect s t := by
  rcases step_cases h with ⟨-, h⟩ | ⟨-, f, -, h⟩ | ⟨-, w, -, h⟩
  · exact .inl h
  · exact .inr (h ▸ .faults f)
  · exact .inr (exec_effect h)

end Sys2Proof.Machine
end

