-- ==== Sys2Proof/Laws/Fields.lean ====
section
/-! SUPPORT. Each field of a word of each shape (30_encoding.md R64), and the opcode table's masks in terms of fields. -/

namespace Sys2Proof

@[simp] theorem regBits_toFin (r : RegIdx) : (regBits r).toFin = r := rfl

/-- A field read back from a word in which it was placed. -/
theorem Opcode.ofBits_bits (o : Opcode) : Opcode.ofBits o.bits = some o := by cases o <;> rfl

section R
variable (o : Opcode) (f : BitVec 3) (rd rs1 rs2 : RegIdx)
@[simp] theorem opcodeField_encodeR : opcodeField (encodeR o f rd rs1 rs2) = o.bits := by
  unfold opcodeField encodeR; ext i hi; simp; grind
@[simp] theorem functField_encodeR : functField (encodeR o f rd rs1 rs2) = f := by
  unfold functField encodeR; ext i hi; simp; grind
theorem fieldC_encodeR_bits : (encodeR o f rd rs1 rs2).extractLsb' 7 5 = regBits rd := by
  unfold encodeR; ext i hi; simp; grind
theorem fieldA_encodeR_bits : (encodeR o f rd rs1 rs2).extractLsb' 15 5 = regBits rs1 := by
  unfold encodeR; ext i hi; simp; grind
theorem fieldB_encodeR_bits : (encodeR o f rd rs1 rs2).extractLsb' 20 5 = regBits rs2 := by
  unfold encodeR; ext i hi; simp; grind
@[simp] theorem fieldC_encodeR : fieldC (encodeR o f rd rs1 rs2) = rd := by
  rw [fieldC, fieldC_encodeR_bits]; rfl
@[simp] theorem fieldA_encodeR : fieldA (encodeR o f rd rs1 rs2) = rs1 := by
  rw [fieldA, fieldA_encodeR_bits]; rfl
@[simp] theorem fieldB_encodeR : fieldB (encodeR o f rd rs1 rs2) = rs2 := by
  rw [fieldB, fieldB_encodeR_bits]; rfl
end R

/-- The L shape is the R shape with funct 0 (decision D31). -/
theorem encodeL_eq (o : Opcode) (v b off : RegIdx) : encodeL o v b off = encodeR o 0 v b off := rfl

/-- The S/B shape is the I shape with rs2 in the place of rd. -/
theorem encodeSB_eq (o : Opcode) (f : BitVec 3) (rs1 rs2 : RegIdx) (imm : BitVec 12) :
    encodeSB o f rs1 rs2 imm = encodeI o f rs2 rs1 imm := rfl

section I
variable (o : Opcode) (f : BitVec 3) (rd rs1 : RegIdx) (imm : BitVec 12)
@[simp] theorem opcodeField_encodeI : opcodeField (encodeI o f rd rs1 imm) = o.bits := by
  unfold opcodeField encodeI; ext i hi; simp; grind
@[simp] theorem functField_encodeI : functField (encodeI o f rd rs1 imm) = f := by
  unfold functField encodeI; ext i hi; simp; grind
theorem fieldC_encodeI_bits : (encodeI o f rd rs1 imm).extractLsb' 7 5 = regBits rd := by
  unfold encodeI; ext i hi; simp; grind
theorem fieldA_encodeI_bits : (encodeI o f rd rs1 imm).extractLsb' 15 5 = regBits rs1 := by
  unfold encodeI; ext i hi; simp; grind
@[simp] theorem fieldC_encodeI : fieldC (encodeI o f rd rs1 imm) = rd := by
  rw [fieldC, fieldC_encodeI_bits]; rfl
@[simp] theorem fieldA_encodeI : fieldA (encodeI o f rd rs1 imm) = rs1 := by
  rw [fieldA, fieldA_encodeI_bits]; rfl
@[simp] theorem imm12Field_encodeI : imm12Field (encodeI o f rd rs1 imm) = imm := by
  unfold imm12Field encodeI; ext i hi; simp; grind
end I

section UJ
variable (o : Opcode) (rd : RegIdx) (imm : BitVec 20)
@[simp] theorem opcodeField_encodeUJ : opcodeField (encodeUJ o rd imm) = o.bits := by
  unfold opcodeField encodeUJ; ext i hi; simp; grind
theorem fieldC_encodeUJ_bits : (encodeUJ o rd imm).extractLsb' 7 5 = regBits rd := by
  unfold encodeUJ; ext i hi; simp; grind
@[simp] theorem fieldC_encodeUJ : fieldC (encodeUJ o rd imm) = rd := by
  rw [fieldC, fieldC_encodeUJ_bits]; rfl
@[simp] theorem imm20Field_encodeUJ : imm20Field (encodeUJ o rd imm) = imm := by
  unfold imm20Field encodeUJ; ext i hi; simp; grind
end UJ

/-- The mask of an opcode alone is the opcode field. -/
theorem and_opcodeMask (w : Word) : w &&& (0x0000007f : Word) = (opcodeField w).setWidth 32 := by
  unfold opcodeField
  ext i hi
  interval_cases i <;> simp

/-- The mask of opcode and funct is the two fields. -/
theorem and_functMask (w : Word) :
    w &&& (0x0000707f : Word) = ((functField w).setWidth 32 <<< 12) ||| (opcodeField w).setWidth 32 := by
  unfold opcodeField functField
  ext i hi
  interval_cases i <;> simp

theorem fits_opcode (w : Word) (o : BitVec 7) : Word.fits 0x0000007f (o.setWidth 32) w = true ↔ opcodeField w = o := by
  rw [Word.fits, beq_iff_eq, and_opcodeMask]
  constructor
  · intro e
    have := congrArg (BitVec.setWidth 7) e
    simpa using this
  · rintro rfl; rfl

theorem fits_opcode_funct (w : Word) (o : BitVec 7) (f : BitVec 3) :
    Word.fits 0x0000707f ((f.setWidth 32 <<< 12) ||| o.setWidth 32) w = true ↔ opcodeField w = o ∧ functField w = f := by
  rw [Word.fits, beq_iff_eq, and_functMask]
  constructor
  · intro e
    constructor
    · have := congrArg opcodeField e
      have h (p : BitVec 7) (q : BitVec 3) : opcodeField ((q.setWidth 32 <<< 12) ||| p.setWidth 32) = p := by
        unfold opcodeField; ext i hi; interval_cases i <;> simp
      rwa [h, h] at this
    · have := congrArg functField e
      have h (p : BitVec 7) (q : BitVec 3) : functField ((q.setWidth 32 <<< 12) ||| p.setWidth 32) = q := by
        unfold functField; ext i hi; interval_cases i <;> simp
      rwa [h, h] at this
  · rintro ⟨rfl, rfl⟩; rfl

/-! ## The checked encoder -/

theorem Opcode.ofBits_isSome_iff (b : BitVec 7) : (Opcode.ofBits b).isSome = true ↔ b.toNat ≤ 10 := by
  revert b; decide

/-- Everything the checked encoder can give. -/
theorem encodeChecked_eq_some (i : Instr) (w : Word) :
    encodeChecked i = some w ↔ i.WellFormed ∧ (opcodeField w).toNat ≤ 10 ∧ encode i = w := by
  simp only [encodeChecked, Instr.encodable, Option.ite_none_right_eq_some, Option.some.injEq, Bool.and_eq_true,
    Opcode.ofBits_isSome_iff]
  constructor
  · rintro ⟨⟨h, k⟩, rfl⟩; exact ⟨h, k, rfl⟩
  · rintro ⟨h, k, rfl⟩; exact ⟨⟨h, k⟩, rfl⟩

theorem encodeChecked_eq_none (i : Instr) :
    encodeChecked i = none ↔ ¬ i.WellFormed ∨ 10 < (opcodeField (encode i)).toNat := by
  simp only [encodeChecked, Instr.encodable, ite_eq_right_iff, reduceCtorEq, imp_false, Bool.and_eq_true,
    Opcode.ofBits_isSome_iff, not_and_or, Nat.not_le]

end Sys2Proof
end

