-- ==== Sys2Proof/Laws/PerInstr.lean ====
section
/-! SUPPORT. Statements for all instructions, made per instruction (LAWS.json).
EncodeFitsRow: the word of a well-formed instruction is a word of the instruction's own row of spec/opcode_table.json. -/

namespace Sys2Proof.Laws.EncodeFitsRow

/-- A row of the table has the instruction's mnemonic, and the instruction's word has the row's fixed bits. -/
def Statement (i : Instr) : Prop :=
  i.WellFormed → ∃ row ∈ opcodeTable, row.mnemonic = i.mnemonic ∧ Word.fits row.mask row.mtch (encode i) = true

theorem hlt : Statement (.hlt) := fun _ =>
  ⟨⟨"hlt", 0x00000000, 0x0000007f⟩, by decide, rfl, by decide⟩

theorem put (value base offset : RegIdx) : Statement (.put value base offset) := fun _ =>
  ⟨⟨"put", 0x00000001, 0x0000007f⟩, by decide, rfl, by
    refine (fits_opcode _ 1).2 ?_; simp [encode, encodeL_eq, Opcode.bits]⟩

theorem get (value base offset : RegIdx) : Statement (.get value base offset) := fun _ =>
  ⟨⟨"get", 0x00000002, 0x0000007f⟩, by decide, rfl, by
    refine (fits_opcode _ 2).2 ?_; simp [encode, encodeL_eq, Opcode.bits]⟩

theorem addi (rd rs1 : RegIdx) (imm : BitVec 12) : Statement (.addi rd rs1 imm) := fun _ =>
  ⟨⟨"addi", 0x00000003, 0x0000707f⟩, by decide, rfl, by
    refine (fits_opcode_funct _ 3 0).2 ?_; simp [encode, Opcode.bits]⟩

theorem slti (rd rs1 : RegIdx) (imm : BitVec 12) : Statement (.slti rd rs1 imm) := fun _ =>
  ⟨⟨"slti", 0x00002003, 0x0000707f⟩, by decide, rfl, by
    refine (fits_opcode_funct _ 3 2).2 ?_; simp [encode, Opcode.bits]⟩

theorem add (rd rs1 rs2 : RegIdx) : Statement (.add rd rs1 rs2) := fun _ =>
  ⟨⟨"add", 0x00000004, 0x0000707f⟩, by decide, rfl, by
    refine (fits_opcode_funct _ 4 0).2 ?_; simp [encode, Opcode.bits]⟩

theorem mlt (rd rs1 rs2 : RegIdx) : Statement (.mlt rd rs1 rs2) := fun _ =>
  ⟨⟨"mlt", 0x00000005, 0x0000007f⟩, by decide, rfl, by
    refine (fits_opcode _ 5).2 ?_; simp [encode, Opcode.bits]⟩

theorem bne (rs1 rs2 : RegIdx) (imm : BitVec 12) : Statement (.bne rs1 rs2 imm) := fun _ =>
  ⟨⟨"bne", 0x00001006, 0x0000707f⟩, by decide, rfl, by
    refine (fits_opcode_funct _ 6 1).2 ?_; simp [encode, encodeSB_eq, Opcode.bits]⟩

theorem jal (rd : RegIdx) (imm : BitVec 20) : Statement (.jal rd imm) := fun _ =>
  ⟨⟨"jal", 0x00000007, 0x0000007f⟩, by decide, rfl, by
    refine (fits_opcode _ 7).2 ?_; simp [encode, Opcode.bits]⟩

theorem lui (rd : RegIdx) (imm : BitVec 20) : Statement (.lui rd imm) := fun _ =>
  ⟨⟨"lui", 0x00000008, 0x0000007f⟩, by decide, rfl, by
    refine (fits_opcode _ 8).2 ?_; simp [encode, Opcode.bits]⟩

theorem lw (rd rs1 : RegIdx) (imm : BitVec 12) : Statement (.lw rd rs1 imm) := fun _ =>
  ⟨⟨"lw", 0x00000009, 0x0000007f⟩, by decide, rfl, by
    refine (fits_opcode _ 9).2 ?_; simp [encode, Opcode.bits]⟩

theorem sw (rs1 rs2 : RegIdx) (imm : BitVec 12) : Statement (.sw rs1 rs2 imm) := fun _ =>
  ⟨⟨"sw", 0x0000000a, 0x0000007f⟩, by decide, rfl, by
    refine (fits_opcode _ 10).2 ?_; simp [encode, encodeSB_eq, Opcode.bits]⟩

theorem unmappedImmF1 (w : Word) : Statement (.unmappedImmF1 w) := fun h =>
  ⟨⟨"unmapped.imm.f1", 0x00001003, 0x0000707f⟩, by decide, rfl, h⟩

theorem unmappedImmF3 (w : Word) : Statement (.unmappedImmF3 w) := fun h =>
  ⟨⟨"unmapped.imm.f3", 0x00003003, 0x0000707f⟩, by decide, rfl, h⟩

theorem unmappedImmF4 (w : Word) : Statement (.unmappedImmF4 w) := fun h =>
  ⟨⟨"unmapped.imm.f4", 0x00004003, 0x0000707f⟩, by decide, rfl, h⟩

theorem unmappedImmF5 (w : Word) : Statement (.unmappedImmF5 w) := fun h =>
  ⟨⟨"unmapped.imm.f5", 0x00005003, 0x0000707f⟩, by decide, rfl, h⟩

theorem unmappedImmF6 (w : Word) : Statement (.unmappedImmF6 w) := fun h =>
  ⟨⟨"unmapped.imm.f6", 0x00006003, 0x0000707f⟩, by decide, rfl, h⟩

theorem unmappedImmF7 (w : Word) : Statement (.unmappedImmF7 w) := fun h =>
  ⟨⟨"unmapped.imm.f7", 0x00007003, 0x0000707f⟩, by decide, rfl, h⟩

theorem unmappedOpF1 (w : Word) : Statement (.unmappedOpF1 w) := fun h =>
  ⟨⟨"unmapped.op.f1", 0x00001004, 0x0000707f⟩, by decide, rfl, h⟩

theorem unmappedOpF2 (w : Word) : Statement (.unmappedOpF2 w) := fun h =>
  ⟨⟨"unmapped.op.f2", 0x00002004, 0x0000707f⟩, by decide, rfl, h⟩

theorem unmappedOpF3 (w : Word) : Statement (.unmappedOpF3 w) := fun h =>
  ⟨⟨"unmapped.op.f3", 0x00003004, 0x0000707f⟩, by decide, rfl, h⟩

theorem unmappedOpF4 (w : Word) : Statement (.unmappedOpF4 w) := fun h =>
  ⟨⟨"unmapped.op.f4", 0x00004004, 0x0000707f⟩, by decide, rfl, h⟩

theorem unmappedOpF5 (w : Word) : Statement (.unmappedOpF5 w) := fun h =>
  ⟨⟨"unmapped.op.f5", 0x00005004, 0x0000707f⟩, by decide, rfl, h⟩

theorem unmappedOpF6 (w : Word) : Statement (.unmappedOpF6 w) := fun h =>
  ⟨⟨"unmapped.op.f6", 0x00006004, 0x0000707f⟩, by decide, rfl, h⟩

theorem unmappedOpF7 (w : Word) : Statement (.unmappedOpF7 w) := fun h =>
  ⟨⟨"unmapped.op.f7", 0x00007004, 0x0000707f⟩, by decide, rfl, h⟩

theorem unmappedBranchF0 (w : Word) : Statement (.unmappedBranchF0 w) := fun h =>
  ⟨⟨"unmapped.branch.f0", 0x00000006, 0x0000707f⟩, by decide, rfl, h⟩

theorem unmappedBranchF2 (w : Word) : Statement (.unmappedBranchF2 w) := fun h =>
  ⟨⟨"unmapped.branch.f2", 0x00002006, 0x0000707f⟩, by decide, rfl, h⟩

theorem unmappedBranchF3 (w : Word) : Statement (.unmappedBranchF3 w) := fun h =>
  ⟨⟨"unmapped.branch.f3", 0x00003006, 0x0000707f⟩, by decide, rfl, h⟩

theorem unmappedBranchF4 (w : Word) : Statement (.unmappedBranchF4 w) := fun h =>
  ⟨⟨"unmapped.branch.f4", 0x00004006, 0x0000707f⟩, by decide, rfl, h⟩

theorem unmappedBranchF5 (w : Word) : Statement (.unmappedBranchF5 w) := fun h =>
  ⟨⟨"unmapped.branch.f5", 0x00005006, 0x0000707f⟩, by decide, rfl, h⟩

theorem unmappedBranchF6 (w : Word) : Statement (.unmappedBranchF6 w) := fun h =>
  ⟨⟨"unmapped.branch.f6", 0x00006006, 0x0000707f⟩, by decide, rfl, h⟩

theorem unmappedBranchF7 (w : Word) : Statement (.unmappedBranchF7 w) := fun h =>
  ⟨⟨"unmapped.branch.f7", 0x00007006, 0x0000707f⟩, by decide, rfl, h⟩

theorem illegalOp11 (w : Word) : Statement (.illegalOp11 w) := fun h =>
  ⟨⟨"illegal.op11", 0x0000000b, 0x0000007f⟩, by decide, rfl, h⟩

theorem illegalOp12to15 (w : Word) : Statement (.illegalOp12to15 w) := fun h =>
  ⟨⟨"illegal.op12_15", 0x0000000c, 0x0000007c⟩, by decide, rfl, h⟩

theorem illegalOp16to31 (w : Word) : Statement (.illegalOp16to31 w) := fun h =>
  ⟨⟨"illegal.op16_31", 0x00000010, 0x00000070⟩, by decide, rfl, h⟩

theorem illegalOp32to63 (w : Word) : Statement (.illegalOp32to63 w) := fun h =>
  ⟨⟨"illegal.op32_63", 0x00000020, 0x00000060⟩, by decide, rfl, h⟩

theorem illegalOp64to127 (w : Word) : Statement (.illegalOp64to127 w) := fun h =>
  ⟨⟨"illegal.op64_127", 0x00000040, 0x00000040⟩, by decide, rfl, h⟩

end Sys2Proof.Laws.EncodeFitsRow
end

