-- ==== Sys2Proof/Tests/Slice0.lean ====
section
/-! SUPPORT. Tests of one step or one function each, with expected results from the tables of spec/95_test_vectors.md (their ids
stand beside them) and from the encodings of 30_encoding.md R64; and a witness for the hypotheses of every statement. -/

namespace Sys2Proof.Tests

open Sys2Proof.Machine

/-! ## Small machines (the conventions of 95_test_vectors.md: MEM_WORDS = 64, everything not listed 0) -/

/-- A machine with some registers, and some words by their index. -/
def machineWith (policy : UnmappedPolicy) (pc : Word) (regs : List (RegIdx × Word)) (mem : List (Nat × Word)) : State :=
  let s := State.create { memWords := 64, unmappedPolicy := policy, linkInc := 1 }
  { regs.foldl (fun t p => t.writeReg p.1 p.2) s with pc := pc, mem := mem.foldl (fun m p => m.write p.1 p.2) [] }

/-- The same under the policy NOP. -/
def machine (pc : Word) (regs : List (RegIdx × Word)) (mem : List (Nat × Word)) : State := machineWith .nop pc regs mem

/-- The state an outcome holds, or the one given. -/
def nextOr (s : State) : Answer → State
  | .next t => t
  | .fault _ => s
  | .refused _ => s

/-- The state after one step. -/
def after (s : State) : State := nextOr s (step s)

/-- The state after one instruction. -/
def afterExec (i : Instr) (s : State) : State := nextOr s (exec i s)

/-! ## WellFormed refuses an ill-formed term of each checked constructor -/

theorem test_ill_formed_unmapped_imm :
    (Instr.unmappedImmF1 0x00003003).wellFormed = false ∧ (Instr.unmappedImmF3 0x00001003).wellFormed = false ∧
    (Instr.unmappedImmF4 0x00004004).wellFormed = false ∧ (Instr.unmappedImmF5 0x00000003).wellFormed = false ∧
    (Instr.unmappedImmF6 0x00002003).wellFormed = false ∧ (Instr.unmappedImmF7 0).wellFormed = false := by decide

theorem test_ill_formed_unmapped_op :
    (Instr.unmappedOpF1 0x00000004).wellFormed = false ∧ (Instr.unmappedOpF2 0x00001004).wellFormed = false ∧
    (Instr.unmappedOpF3 0x00003003).wellFormed = false ∧ (Instr.unmappedOpF4 0x00005004).wellFormed = false ∧
    (Instr.unmappedOpF5 0x00004004).wellFormed = false ∧ (Instr.unmappedOpF6 0x00007004).wellFormed = false ∧
    (Instr.unmappedOpF7 0x00007006).wellFormed = false := by decide

theorem test_ill_formed_unmapped_branch :
    (Instr.unmappedBranchF0 0x00001006).wellFormed = false ∧ (Instr.unmappedBranchF2 0x00000006).wellFormed = false ∧
    (Instr.unmappedBranchF3 0x00003004).wellFormed = false ∧ (Instr.unmappedBranchF4 0x00005006).wellFormed = false ∧
    (Instr.unmappedBranchF5 0x00004006).wellFormed = false ∧ (Instr.unmappedBranchF6 0x00007006).wellFormed = false ∧
    (Instr.unmappedBranchF7 0x00007007).wellFormed = false := by decide

theorem test_ill_formed_illegal :
    (Instr.illegalOp11 0x0000000a).wellFormed = false ∧ (Instr.illegalOp12to15 0x0000000b).wellFormed = false ∧
    (Instr.illegalOp16to31 0x0000000f).wellFormed = false ∧ (Instr.illegalOp32to63 0x0000001f).wellFormed = false ∧
    (Instr.illegalOp64to127 0x0000003f).wellFormed = false := by decide

/-- The checked encoder refuses such a term and gives a well-formed one its word (U9). -/
theorem test_encodeChecked :
    encodeChecked (.illegalOp11 0x0000000b) = none ∧ encodeChecked (.illegalOp64to127 0xffffffff) = none ∧
    encodeChecked (.illegalOp11 0x0000000a) = none ∧ encodeChecked (.unmappedOpF3 0x0010b083) = none ∧
    encodeChecked (.unmappedOpF3 0x0010b084) = some 0x0010b084 ∧ encodeChecked (.add 8 8 2) = some 0x00240404 := by decide

/-! ## Decoding: a word written out, field by field from bit 31 down, from R64 for every constructor -/

theorem test_decode_hlt : decode 0b1111111111111111111111111_0000000 = .hlt := by decide
theorem test_decode_put : decode 0b0000000_01001_00110_000_00111_0000001 = .put 7 6 9 := by decide
theorem test_decode_get : decode 0b0000000_01001_00110_000_01010_0000010 = .get 10 6 9 := by decide
theorem test_decode_addi : decode 0b111111111111_00001_000_00011_0000011 = .addi 3 1 0xfff := by decide
theorem test_decode_slti : decode 0b000000000001_00001_010_00011_0000011 = .slti 3 1 1 := by decide
theorem test_decode_add : decode 0b0000000_00010_01000_000_01001_0000100 = .add 9 8 2 := by decide
theorem test_decode_mlt : decode 0b1111111_00010_00001_111_01000_0000101 = .mlt 8 1 2 := by decide
theorem test_decode_bne : decode 0b000000001100_00011_001_00101_0000110 = .bne 3 5 12 := by decide
theorem test_decode_jal : decode 0b11111111111111101100_00001_0000111 = .jal 1 0xfffec := by decide
theorem test_decode_lui : decode 0b00010010001101000101_00101_0001000 = .lui 5 0x12345 := by decide
theorem test_decode_lw : decode 0b111111111100_00110_000_00111_0001001 = .lw 7 6 0xffc := by decide
theorem test_decode_sw : decode 0b000000000100_00111_000_01000_0001010 = .sw 7 8 4 := by decide

theorem test_decode_unmapped_imm :
    decode 0b000000000101_00001_001_00001_0000011 = .unmappedImmF1 0x00509083 ∧
    decode 0b000000000000_00000_011_00000_0000011 = .unmappedImmF3 0x00003003 ∧
    decode 0b000000000000_00000_100_00000_0000011 = .unmappedImmF4 0x00004003 ∧
    decode 0b000000000000_00000_101_00000_0000011 = .unmappedImmF5 0x00005003 ∧
    decode 0b000000000000_00000_110_00000_0000011 = .unmappedImmF6 0x00006003 ∧
    decode 0b000000000000_00000_111_00000_0000011 = .unmappedImmF7 0x00007003 := by decide

theorem test_decode_unmapped_op :
    decode 0b0000000_00000_00000_001_00000_0000100 = .unmappedOpF1 0x00001004 ∧
    decode 0b0000000_00000_00000_010_00000_0000100 = .unmappedOpF2 0x00002004 ∧
    decode 0b0000000_00001_00001_011_00001_0000100 = .unmappedOpF3 0x0010b084 ∧
    decode 0b0000000_00000_00000_100_00000_0000100 = .unmappedOpF4 0x00004004 ∧
    decode 0b0000000_00000_00000_101_00000_0000100 = .unmappedOpF5 0x00005004 ∧
    decode 0b0000000_00000_00000_110_00000_0000100 = .unmappedOpF6 0x00006004 ∧
    decode 0b0000000_00000_00000_111_00000_0000100 = .unmappedOpF7 0x00007004 := by decide

theorem test_decode_unmapped_branch :
    decode 0b000000001000_00001_000_00000_0000110 = .unmappedBranchF0 0x00808006 ∧
    decode 0b000000000000_00000_010_00000_0000110 = .unmappedBranchF2 0x00002006 ∧
    decode 0b000000000000_00000_011_00000_0000110 = .unmappedBranchF3 0x00003006 ∧
    decode 0b000000000000_00000_100_00000_0000110 = .unmappedBranchF4 0x00004006 ∧
    decode 0b000000000000_00000_101_00000_0000110 = .unmappedBranchF5 0x00005006 ∧
    decode 0b000000000000_00000_110_00000_0000110 = .unmappedBranchF6 0x00006006 ∧
    decode 0b000000000000_00000_111_00000_0000110 = .unmappedBranchF7 0x00007006 := by decide

theorem test_decode_illegal :
    decode 0b0000000000000000000000000_0001011 = .illegalOp11 11 ∧
    decode 0b0000000000000000000000000_0001100 = .illegalOp12to15 12 ∧
    decode 0b0000000000000000000000000_0001111 = .illegalOp12to15 15 ∧
    decode 0b0000000000000000000000000_0010000 = .illegalOp16to31 16 ∧
    decode 0b0000000000000000000000000_0011111 = .illegalOp16to31 31 ∧
    decode 0b0000000000000000000000000_0100000 = .illegalOp32to63 32 ∧
    decode 0b0000000000000000000000000_0111111 = .illegalOp32to63 63 ∧
    decode 0b0000000000000000000000000_1000000 = .illegalOp64to127 64 ∧
    decode 0b1111111111111111111111111_1111111 = .illegalOp64to127 0xffffffff := by decide

/-- S1: encoded words of the round-trip table. -/
theorem test_encode :
    encode (.addi 31 31 0x800) = 0x800f8f83 ∧ encode (.slti 31 0 0xfff) = 0xfff02f83 ∧
    encode (.bne 0 31 0x7ff) = 0x7ff01f86 ∧ encode (.jal 31 0x80000) = 0x80000f87 ∧
    encode (.lui 0 0x7ffff) = 0x7ffff008 ∧ encode (.lw 31 31 0xffc) = 0xffcf8f89 ∧
    encode (.sw 31 31 0x7ff) = 0x7fff8f8a ∧ encode (.put 31 31 31) = 0x01ff8f81 ∧
    encode (.mlt 0 31 0) = 0x000f8005 ∧ encode (.add 31 0 31) = 0x01f00f84 ∧ encode (.get 0 0 0) = 2 ∧ encode .hlt = 0 := by
  decide

/-- The host's two questions, on every row's match word. -/
theorem test_decodeTableWord :
    opcodeTable.all (fun row => (decodeTableWord 32 row.mtch.toNat).map Instr.mnemonic == some row.mnemonic) = true := by
  decide

theorem test_withFetchWord :
    ((after (State.reset.withFetchWord 32 0x00a00083)).x 1, (after (State.reset.withFetchWord 32 0x00a00083)).pc) = (10, 4) := by
  decide

/-! ## One step of each instruction -/

/-- V3. -/
theorem test_hlt : ((after (machine 0x10 [(5, 9)] [])).runState, (after (machine 0x10 [(5, 9)] [])).pc) = (.halted, 0x10) := by decide
/-- V9: the sum of the registers wraps. -/
theorem test_put_wraps :
    (after (machine 0 [(6, 0xfffffffc), (7, 0xabcd), (9, 8)] [(0, 0x00930381)])).mem.read 1 = 0xabcd := by decide
/-- V7. -/
theorem test_put_misaligned :
    (after (machine 0 [(6, 0x80), (7, 1), (9, 2)] [(0, 0x00930381)])).faultRecord = some (.misalignedAccess .dataWrite 0x82) := by
  decide
/-- V10: the base is read before the write. -/
theorem test_get_base_is_destination :
    (after (machine 0 [(6, 0x80), (9, 4)] [(0, 0x00930302), (33, 0x11)])).x 6 = 0x11 := by decide
/-- V8. -/
theorem test_get_out_of_range :
    (after (machine 0 [(6, 0x80), (7, 0x55), (9, 0x80)] [(0, 0x00930382)])).faultRecord =
      some (.accessOutOfRange .dataRead 0x100) := by decide
/-- V12. -/
theorem test_addi_wraps : (after (machine 0 [(2, 0x7fffffff)] [(0, 0x00110083)])).x 1 = 0x80000000 := by decide
/-- V14. -/
theorem test_addi_to_x0 :
    ((after (machine 0 [(2, 3)] [(0, 0x00510003)])).x 0, (after (machine 0 [(2, 3)] [(0, 0x00510003)])).pc) = (0, 4) := by decide
/-- V17: a signed comparison. -/
theorem test_slti_signed : (after (machine 0 [(1, 0x80000000)] [(0, 0x8000a183)])).x 3 = 1 := by decide
/-- V20: equal values give 0, over an old 7. -/
theorem test_slti_equal : (after (machine 0 [(1, 0xfffff800), (3, 7)] [(0, 0x8000a183)])).x 3 = 0 := by decide
/-- V21. -/
theorem test_add_wraps : (after (machine 0 [(2, 2), (8, 0xffffffff)] [(0, 0x00240404)])).x 8 = 1 := by decide
/-- V23: destination and both sources are one register. -/
theorem test_add_same_register : (after (machine 0 [(1, 0x80000001)] [(0, 0x00108084)])).x 1 = 2 := by decide
/-- V26. -/
theorem test_mlt_low_word : (after (machine 0 [(5, 0x12345678)] [(0, 0x00528605)])).x 12 = 0x1df4d840 := by decide
/-- V28d: funct bits and `w[31:25]` all 1. -/
theorem test_mlt_ignored_bits : (after (machine 0 [(1, 10), (2, 5)] [(0, 0xfe20f405)])).x 8 = 0x32 := by decide
/-- V35c: only bit 31 differs. -/
theorem test_bne_taken : (after (machine 8 [(1, 0x80000000)] [(2, 0x7fc09106)])).pc = 0x808 := by decide
/-- V30. -/
theorem test_bne_not_taken : (after (machine 0x10 [(1, 7), (2, 7)] [(4, 0x00c09106)])).pc = 0x14 := by decide
/-- V39b. -/
theorem test_jal_links :
    ((after (machine 0x10 [] [(4, 0x80000f87)])).x 31, (after (machine 0x10 [] [(4, 0x80000f87)])).pc) = (0x11, 0xfff80014) := by
  decide
/-- V37. -/
theorem test_jal_x0 :
    ((after (machine 0x1c [] [(7, 0xfffec007)])).x 0, (after (machine 0x1c [] [(7, 0xfffec007)])).pc) = (0, 0x0c) := by decide
/-- V44. -/
theorem test_lui : (after (machine 0 [] [(0, 0xfffff588)])).x 11 = 0xfffff000 := by decide
/-- V46. -/
theorem test_lui_x0 : (after (machine 0 [] [(0, 0x00005008)])).x 0 = 0 := by decide
/-- V51c: the base is the destination. -/
theorem test_lw_base_is_destination : (after (machine 0 [(6, 0x80)] [(0, 0x00430309), (33, 0x99)])).x 6 = 0x99 := by decide
/-- V51: a destination of x0 does not suppress the access. -/
theorem test_lw_x0_faults :
    (after (machine 0 [(6, 0x80)] [(0, 0x00130009)])).faultRecord = some (.misalignedAccess .dataRead 0x81) := by decide
/-- V56: a store over its own word. -/
theorem test_sw_own_word :
    ((after (machine 0 [(8, 0x32)] [(0, 0x0003840a)])).mem.read 0, (after (machine 0 [(8, 0x32)] [(0, 0x0003840a)])).pc) =
      (0x32, 4) := by decide
/-- V54. -/
theorem test_sw_out_of_range :
    (after (machine 4 [(6, 0x100)] [(1, 0x0003030a)])).faultRecord = some (.accessOutOfRange .dataWrite 0x100) := by decide

/-- V42: no branch although the registers differ. -/
theorem test_unmapped_nop : (after (machine 0xc [(1, 1)] [(3, 0x00808006)])).pc = 0x10 := by decide
/-- V40f, V41f, V42f. -/
theorem test_unmapped_fault :
    (after (machineWith .fault 4 [(1, 1)] [(1, 0x00509083)])).faultRecord = some (.illegalOpcode 0x00509083) ∧
    (after (machineWith .fault 8 [(1, 1)] [(2, 0x0010b084)])).faultRecord = some (.illegalOpcode 0x0010b084) ∧
    (after (machineWith .fault 12 [(1, 1)] [(3, 0x00808006)])).faultRecord = some (.illegalOpcode 0x00808006) := by decide
/-- V57. -/
theorem test_illegal :
    ((after (machine 4 [(1, 1)] [(1, 0x0000000b)])).faultRecord, (after (machine 4 [(1, 1)] [(1, 0x0000000b)])).pc) =
      (some (.illegalOpcode 0x0000000b), 4) := by decide
/-- V59b: alignment is tested before range. -/
theorem test_fetch_misaligned_first :
    (after (machine 0x102 [] [])).faultRecord = some (.misalignedAccess .fetch 0x102) := by decide
/-- V59c. -/
theorem test_fetch_out_of_range :
    (after (machine 0xfffffffc [] [])).faultRecord = some (.accessOutOfRange .fetch 0xfffffffc) := by decide

/-! ## Memory, host and assembler -/

/-- Equal memories are equal lists: writing 0 takes a word off the list, and the order of writes does not show. -/
theorem test_memory_canonical :
    Memory.write (Memory.write [] 3 7) 3 0 = [] ∧
    Memory.write (Memory.write [] 3 7) 1 5 = Memory.write (Memory.write [] 1 5) 3 7 := by decide

/-- V62, V63: refused loads. -/
theorem test_load_refused : load 0x02 [1] (machine 0 [] []) = none ∧ load 0xfc [1, 2] (machine 0 [] []) = none := by decide
/-- V61, V64. -/
theorem test_load :
    (load 0x10 [0x00a00083, 0] (machine 0 [] [])).map (fun s => s.mem.read 4) = some 0x00a00083 ∧
    (load 0xfc [1] (machine 0 [] [])).map (fun s => s.mem.read 63) = some 1 := by decide

/-- The six units on V5 and on V53. -/
theorem test_units :
    (unitStep (machine 0 [(6, 0x80), (9, 4)] [(0, 0x00930502), (33, 0xcafef00d)])).1.x 10 = 0xcafef00d ∧
    (unitStep (machine 0 [(5, 1), (6, 0x80)] [(0, 0x0023028a)])).2 = .noProgress := by decide

/-- The host's inspection of slot 31, of the pc's slot 32, and of the last word (R35). -/
theorem test_inspection :
    ((machine 0x24 [(31, 9)] [(63, 5)]).slot 31, (machine 0x24 [(31, 9)] [(63, 5)]).slot 32,
      (machine 0x24 [(31, 9)] [(63, 5)]).memWord 63, (machine 0x24 [(31, 9)] [(63, 5)]).memWord 64) = (9, 0x24, some 5, none) := by
  decide

/-- P2, with a comment line and a blank line (R80). -/
theorem test_assemble :
    assemble "# P2\nset x1 10\n\nset x2 5\nmlt x8 x1 x2\nhlt\n".toList = .ok [0x00a00083, 0x00500103, 0x00208405, 0] := by rfl
/-- S8: an unknown mnemonic gives an error that names it, and no word. -/
theorem test_assemble_unknown : assemble "hlt\nxyz x1".toList = .error (2, .unknownMnemonic "xyz".toList) := by rfl
/-- R81, R82: `x32` and 2048 are refused. -/
theorem test_assemble_range :
    assemble "add x1 x32 x2".toList = .error (1, .badRegister "x32".toList) ∧
    assemble "addi x1 x1 2048".toList = .error (1, .badImmediate "2048".toList) := ⟨rfl, rfl⟩

/-! ## Witnesses: for every statement with hypotheses, states and operands that meet them all -/

theorem witness_DecodeAndEncodeAgree :
    (Instr.addi 31 31 0x800).WellFormed ∧ (Instr.unmappedOpF7 0xfffff004).WellFormed ∧
    (Instr.illegalOp64to127 0xffffffff).WellFormed := by decide

theorem witness_DecoderAgreesWithTheOpcodeTable : ⟨"sw", 0x0000000a, 0x0000007f⟩ ∈ opcodeTable := by decide

/-- The same row also fits a word, as the inner hypothesis of the statement asks. -/
theorem witness_EveryWordIsOfExactlyOneRow :
    ⟨"sw", 0x0000000a, 0x0000007f⟩ ∈ opcodeTable ∧ Word.fits 0x0000007f 0x0000000a 0x0003840a = true := by decide

theorem witness_IgnoredBitsDoNotMatter :
    (0xfe240404 : Word) ≠ 0x00240404 ∧
    (0xfe240404 : Word) &&& keptBits (decode 0xfe240404) = 0x00240404 &&& keptBits (decode 0xfe240404) := by decide

theorem witness_HltStopsTheMachineAndChangesNothingElse :
    (0xffffff80 : Word).extractLsb' 0 7 = 0 ∧ (machine 0xfc [] [(63, 0xffffff80)]).CanFetch ∧
    (machine 0xfc [] [(63, 0xffffff80)]).fetchedWord.extractLsb' 0 7 = 0 := by decide

/-- The last word, the byte after its address, and the first address beyond the memory. -/
theorem witness_PutStoresAtRegisterPlusRegister :
    (0x01ff8f81 : Word).extractLsb' 0 7 = 1 ∧
    (machine 0 [(6, 0x80), (9, 0x7c)] []).Accessible ((machine 0 [(6, 0x80), (9, 0x7c)] []).x 6 + (machine 0 [(6, 0x80), (9, 0x7c)] []).x 9) ∧
    ((machine 0 [(6, 0x80), (9, 0x7d)] []).x 6 + (machine 0 [(6, 0x80), (9, 0x7d)] []).x 9).extractLsb' 0 2 ≠ 0 ∧
    ((machine 0 [(6, 0x80), (9, 0x80)] []).x 6 + (machine 0 [(6, 0x80), (9, 0x80)] []).x 9).extractLsb' 0 2 = 0 ∧
    (machine 0 [] []).params.memWords ≤
      wordIndex ((machine 0 [(6, 0x80), (9, 0x80)] []).x 6 + (machine 0 [(6, 0x80), (9, 0x80)] []).x 9) := by decide

theorem witness_GetLoadsFromRegisterPlusRegister :
    (0x00930502 : Word).extractLsb' 0 7 = 2 ∧
    (machine 0 [(6, 0xfc)] []).Accessible ((machine 0 [(6, 0xfc)] []).x 6 + (machine 0 [(6, 0xfc)] []).x 0) ∧
    ((machine 0 [(6, 0xff)] []).x 6 + (machine 0 [(6, 0xff)] []).x 0).extractLsb' 0 2 ≠ 0 ∧
    ((machine 0 [(6, 0x100)] []).x 6 + (machine 0 [(6, 0x100)] []).x 0).extractLsb' 0 2 = 0 ∧
    (machine 0 [] []).params.memWords ≤ wordIndex ((machine 0 [(6, 0x100)] []).x 6 + (machine 0 [(6, 0x100)] []).x 0) := by decide

theorem witness_LwLoadsTheAddressedWord :
    (0xffcf8f89 : Word).extractLsb' 0 7 = 9 ∧
    (machine 0 [(6, 0x100)] []).Accessible ((machine 0 [(6, 0x100)] []).x 6 + (0xffc : BitVec 12).signExtend 32) ∧
    ((machine 0 [(6, 0x100)] []).x 6 + (0xffd : BitVec 12).signExtend 32).extractLsb' 0 2 ≠ 0 ∧
    ((machine 0 [(6, 0x100)] []).x 6 + (0 : BitVec 12).signExtend 32).extractLsb' 0 2 = 0 ∧
    (machine 0 [] []).params.memWords ≤ wordIndex ((machine 0 [(6, 0x100)] []).x 6 + (0 : BitVec 12).signExtend 32) := by decide

theorem witness_SwStoresTheAddressedWord :
    (0x0003840a : Word).extractLsb' 0 7 = 10 ∧
    (machine 0 [(31, 0xfffff8fd)] []).Accessible ((machine 0 [(31, 0xfffff8fd)] []).x 31 + (0x7ff : BitVec 12).signExtend 32) ∧
    wordIndex ((machine 0 [(31, 0xfffff8fd)] []).x 31 + (0x7ff : BitVec 12).signExtend 32) = 63 ∧
    ((machine 0 [(31, 0xfffff8fd)] []).x 31 + (0x7fe : BitVec 12).signExtend 32).extractLsb' 0 2 ≠ 0 ∧
    ((machine 0 [] []).x 0 + (0x100 : BitVec 12).signExtend 32).extractLsb' 0 2 = 0 ∧
    (machine 0 [] []).params.memWords ≤ wordIndex ((machine 0 [] []).x 0 + (0x100 : BitVec 12).signExtend 32) := by decide

theorem witness_AddiAddsTheSignExtendedImmediate :
    (0xfff08083 : Word).extractLsb' 0 7 = 3 ∧ (0xfff08083 : Word).extractLsb' 12 3 = 0 := by decide

theorem witness_SltiComparesSigned :
    (0xfff02f83 : Word).extractLsb' 0 7 = 3 ∧ (0xfff02f83 : Word).extractLsb' 12 3 = 2 := by decide

theorem witness_AddAddsTwoRegisters :
    (0xfe240404 : Word).extractLsb' 0 7 = 4 ∧ (0xfe240404 : Word).extractLsb' 12 3 = 0 := by decide

theorem witness_MltKeepsTheLowWordOfTheProduct : (0xfe20f405 : Word).extractLsb' 0 7 = 5 := by decide

theorem witness_BneMovesThePcWhenRegistersDiffer :
    (0x7ff01f86 : Word).extractLsb' 0 7 = 6 ∧ (0x7ff01f86 : Word).extractLsb' 12 3 = 1 ∧
    (machine 0 [(1, 0x80000000)] []).x 1 ≠ (machine 0 [(1, 0x80000000)] []).x 0 ∧
    (machine 0 [(1, 7), (2, 7)] []).x 1 = (machine 0 [(1, 7), (2, 7)] []).x 2 := by decide

theorem witness_JalLinksAndJumps :
    (0x80000f87 : Word).extractLsb' 0 7 = 7 ∧ (machine 0 [] []).params.linkInc = 1 ∧ (31 : RegIdx) ≠ 0 := by decide

theorem witness_LuiPutsTheImmediateInTheUpperBits : (0xfffff288 : Word).extractLsb' 0 7 = 8 := by decide

/-- Both policies, and a form of each polymorphic opcode. -/
theorem witness_UnmappedFunctIsANoOpOrFaultsByPolicy :
    Instr.unmappedImmF1 0x00509083 ∈ unmappedForms 0x00509083 ∧ Instr.unmappedBranchF7 0x00007006 ∈ unmappedForms 0x00007006 ∧
    (machine 0 [] []).params.unmappedPolicy = .nop ∧ (machineWith .fault 0 [] []).params.unmappedPolicy = .fault := by decide

theorem witness_IllegalOpcodesFault :
    Instr.illegalOp11 11 ∈ illegalForms 11 ∧ Instr.illegalOp64to127 0xffffffff ∈ illegalForms 0xffffffff := by decide

theorem witness_ZeroedMemoryHalts :
    (machine 0xfc [(1, 1)] []).CanFetch ∧ (machine 0xfc [(1, 1)] []).fetchedWord = 0 := by decide

theorem witness_StepRunsTheDecodedInstruction : (machine 0xfc [] [(63, 0x00100083)]).CanFetch := by decide

/-- The three clauses at the two ends of the memory and at the edge of the alignment. -/
theorem witness_FetchIsCheckedLikeData :
    (machine 3 [] []).runState = .running ∧ (machine 3 [] []).pc.extractLsb' 0 2 ≠ 0 ∧
    (machine 0x100 [] []).runState = .running ∧ (machine 0x100 [] []).pc.extractLsb' 0 2 = 0 ∧
    (machine 0x100 [] []).params.memWords ≤ wordIndex (machine 0x100 [] []).pc ∧
    (machine 0xfc [] []).Accessible (machine 0xfc [] []).pc := by decide

theorem witness_StoppedMachineDoesNotChange :
    (after (machine 0 [] [])).runState = .halted ∧ (after (machine 2 [] [])).runState = .faulted := by decide

/-- A step that halts, one that runs on, and one that faults. -/
theorem witness_HaltedOnlyByTheHaltOpcode :
    (machine 0 [] []).runState = .running ∧ step (machine 0 [] []) = .next (after (machine 0 [] [])) ∧
    (after (machine 0 [] [])).runState = .halted := ⟨rfl, rfl, rfl⟩

theorem witness_HowThePcMoves :
    step (machine 0x10 [(1, 1)] [(4, 0x00c09006)]) = .next (after (machine 0x10 [(1, 1)] [(4, 0x00c09006)])) ∧
    (after (machine 0x10 [(1, 1)] [(4, 0x00c09006)])).runState = .running ∧
    step (machine 2 [] []) = .next (after (machine 2 [] [])) ∧ (after (machine 2 [] [])).runState ≠ .running :=
  ⟨rfl, rfl, rfl, by decide⟩

/-- A `lui`, the immediates 0 and -8 in both widths, and the two self-loops (V38 and V31). -/
theorem witness_TheAdvanceFollowsEveryHandler :
    exec (.lui 5 9) (machine 0 [] []) = .next (afterExec (.lui 5 9) (machine 0 [] [])) ∧
    (afterExec (.lui 5 9) (machine 0 [] [])).runState = .running ∧
    (0 : BitVec 20).toInt = 0 ∧ (BitVec.ofInt 20 (-8)).toInt = -8 ∧
    (0 : BitVec 12).toInt = 0 ∧ (BitVec.ofInt 12 (-8)).toInt = -8 ∧
    (machine 4 [] [(1, 0xffffc287)]).CanFetch ∧
    decode (machine 4 [] [(1, 0xffffc287)]).fetchedWord = .jal 5 (BitVec.ofInt 20 (-4)) ∧
    (BitVec.ofInt 20 (-4)).toInt = -4 ∧
    (machine 0x10 [(1, 1)] [(4, 0xffc09006)]).CanFetch ∧
    decode (machine 0x10 [(1, 1)] [(4, 0xffc09006)]).fetchedWord = .bne 1 0 (BitVec.ofInt 12 (-4)) ∧
    (BitVec.ofInt 12 (-4)).toInt = -4 ∧
    (machine 0x10 [(1, 1)] [(4, 0xffc09006)]).x 1 ≠ (machine 0x10 [(1, 1)] [(4, 0xffc09006)]).x 0 :=
  ⟨rfl, by decide⟩

theorem witness_WritesToRegisterZeroAreDiscarded :
    (31 : RegIdx) ≠ 0 ∧ destination (.jal 0 8) = some 0 ∧
    exec (.jal 0 8) (machine 0 [] []) = .next (afterExec (.jal 0 8) (machine 0 [] [])) := ⟨by decide, rfl, rfl⟩

theorem witness_OnlyTheDestinationRegisterChanges :
    destination (.addi 1 2 3) ≠ some 2 ∧
    exec (.addi 1 2 3) (machine 0 [(2, 4)] []) = .next (afterExec (.addi 1 2 3) (machine 0 [(2, 4)] [])) := ⟨by decide, rfl⟩

/-- Two machines that differ in x9, and an `add` that does not read it. -/
theorem witness_OnlyTheSourceRegistersMatter :
    machine 0 [(2, 4), (3, 5)] [] ≠ machine 0 [(2, 4), (3, 5), (9, 1)] [] ∧
    (∀ r ∈ sources (.add 1 2 3), (machine 0 [(2, 4), (3, 5)] []).x r = (machine 0 [(2, 4), (3, 5), (9, 1)] []).x r) ∧
    (machine 0 [(2, 4), (3, 5)] []).pc = (machine 0 [(2, 4), (3, 5), (9, 1)] []).pc ∧
    (machine 0 [(2, 4), (3, 5)] []).mem = (machine 0 [(2, 4), (3, 5), (9, 1)] []).mem ∧
    (machine 0 [(2, 4), (3, 5)] []).runState = .running ∧ (machine 0 [(2, 4), (3, 5), (9, 1)] []).runState = .running ∧
    (machine 0 [(2, 4), (3, 5)] []).faultRecord = (machine 0 [(2, 4), (3, 5), (9, 1)] []).faultRecord ∧
    (machine 0 [(2, 4), (3, 5)] []).params = (machine 0 [(2, 4), (3, 5), (9, 1)] []).params ∧
    (afterExec (.add 1 2 3) (machine 0 [(2, 4), (3, 5)] [])).runState = .running ∧ destination (.add 1 2 3) = some 1 := by
  decide

theorem witness_LuiThenAddiBuildsAnyConstant : (5 : RegIdx) ≠ 0 := by decide

/-- The ends of the range, and a pc, an `lw` address and a `get` address at which MemRead gives a fault. -/
theorem witness_MemReadReturnsTheWordOrItsFault :
    (machine 0 [] []).Accessible 0xfc ∧ (0xfe : Word).extractLsb' 0 2 ≠ 0 ∧
    (0x100 : Word).extractLsb' 0 2 = 0 ∧ (machine 0 [] []).params.memWords ≤ wordIndex 0x100 ∧
    (machine 2 [] []).runState = .running ∧
    (machine 2 [] []).memRead .fetch (machine 2 [] []).pc = .error (.misalignedAccess .fetch 2) ∧
    (machine 0 [] []).memRead .dataRead ((machine 0 [] []).x 1 + (6 : BitVec 12).signExtend 32) =
      .error (.misalignedAccess .dataRead 6) ∧
    (machine 0 [(2, 0x100)] []).memRead .dataRead ((machine 0 [(2, 0x100)] []).x 1 + (machine 0 [(2, 0x100)] []).x 2) =
      .error (.accessOutOfRange .dataRead 0x100) := ⟨by decide, by decide, by decide, by decide, rfl, rfl, rfl, rfl⟩

/-- The first and the last word, the addresses beside the last word, and the first address beyond it. -/
theorem witness_MemWriteReplacesExactlyOneWord :
    (machine 0 [] []).Accessible 0 ∧ (machine 0 [] []).Accessible 0xfc ∧
    (0xfb : Word).extractLsb' 0 2 ≠ 0 ∧ (0xfd : Word).extractLsb' 0 2 ≠ 0 ∧
    (0x100 : Word).extractLsb' 0 2 = 0 ∧ (machine 0 [] []).params.memWords ≤ wordIndex 0x100 := by decide

/-- An instruction that stores nothing, a store that lands, and one that faults. -/
theorem witness_OnlyStoresChangeMemory :
    exec (.lw 1 0 4) (machine 0 [] []) = .next (afterExec (.lw 1 0 4) (machine 0 [] [])) ∧
    storeOf (machine 0 [] []) (.lw 1 0 4) = none ∧
    exec (.sw 0 5 4) (machine 0 [(5, 9)] []) = .next (afterExec (.sw 0 5 4) (machine 0 [(5, 9)] [])) ∧
    storeOf (machine 0 [(5, 9)] []) (.sw 0 5 4) = some (4, 9) ∧ (machine 0 [(5, 9)] []).Accessible 4 ∧
    exec (.put 5 5 0) (machine 0 [(5, 9)] []) = .next (afterExec (.put 5 5 0) (machine 0 [(5, 9)] [])) ∧
    storeOf (machine 0 [(5, 9)] []) (.put 5 5 0) = some (9, 9) ∧ ¬ (machine 0 [(5, 9)] []).Accessible 9 :=
  ⟨rfl, rfl, rfl, by decide, by decide, rfl, by decide, by decide⟩

/-- V55: the store at 0 writes the word that the next step fetches at 4. -/
theorem witness_StoresAreSeenByLaterFetches :
    storeOf (machine 0 [(5, 0x00100083)] []) (.sw 0 5 4) = some (4, 0x00100083) ∧
    (machine 0 [(5, 0x00100083)] []).Accessible 4 ∧
    exec (.sw 0 5 4) (machine 0 [(5, 0x00100083)] []) = .next (afterExec (.sw 0 5 4) (machine 0 [(5, 0x00100083)] [])) ∧
    (afterExec (.sw 0 5 4) (machine 0 [(5, 0x00100083)] [])).runState = .running ∧
    (afterExec (.sw 0 5 4) (machine 0 [(5, 0x00100083)] [])).pc = 4 := ⟨by decide, by decide, rfl, rfl, by decide⟩

theorem witness_CanonicalMemoriesThatReadAlikeAreEqual :
    Memory.wf [(1, 5), (3, 7)] ∧ Memory.wf (Memory.write (Memory.write [] 3 7) 1 5) ∧
    ∀ k, Memory.read [(1, 5), (3, 7)] k = Memory.read (Memory.write (Memory.write [] 3 7) 1 5) k :=
  ⟨by decide, by decide, fun _ => rfl⟩

theorem witness_FaultEntryChangesNothingElse :
    (machine 4 [(1, 1)] [(1, 11)]).runState = .running ∧
    step (machine 4 [(1, 1)] [(1, 11)]) = .next (after (machine 4 [(1, 1)] [(1, 11)])) ∧
    (after (machine 4 [(1, 1)] [(1, 11)])).runState = .faulted := ⟨rfl, rfl, by decide⟩

/-- A step with a fault of the table, and one without. -/
theorem witness_FaultsAreExactlyThoseOfTheTable :
    (machine 8 [(6, 0x82)] [(2, 0x00030389)]).runState = .running ∧
    step (machine 8 [(6, 0x82)] [(2, 0x00030389)]) = .next (after (machine 8 [(6, 0x82)] [(2, 0x00030389)])) ∧
    stepFault (machine 8 [(6, 0x82)] [(2, 0x00030389)]) = some (.misalignedAccess .dataRead 0x82) ∧
    step (machine 8 [(6, 0x80)] [(2, 0x00030389)]) = .next (after (machine 8 [(6, 0x80)] [(2, 0x00030389)])) ∧
    stepFault (machine 8 [(6, 0x80)] [(2, 0x00030389)]) = none := ⟨rfl, rfl, by decide, rfl, by decide⟩

/-- The two ends of the range of MEM_WORDS. -/
theorem witness_CreatedMachinesMeetTheInvariant :
    Params.wf { memWords := 1, unmappedPolicy := .fault, linkInc := 4 } ∧
    Params.wf { memWords := 2 ^ 30, unmappedPolicy := .nop, linkInc := 1 } := by decide

theorem witness_machine_inv : (machine 0 [(5, 9)] [(0, 0x0040028a), (63, 1)]).Inv where
  memCanonical := by decide
  memInRange := by decide
  x0Zero := by decide
  paramsLegal := by decide
  recordIffFaulted := by decide

theorem witness_EveryStepKeepsTheInvariant :
    (machine 0 [(5, 9)] [(0, 0x0040028a), (63, 1)]).Inv ∧
    step (machine 0 [(5, 9)] [(0, 0x0040028a), (63, 1)]) = .next (after (machine 0 [(5, 9)] [(0, 0x0040028a), (63, 1)])) :=
  ⟨witness_machine_inv, rfl⟩

theorem witness_ParametersNeverChange :
    step (machine 0 [] [(0, 0x00100083)]) = .next (after (machine 0 [] [(0, 0x00100083)])) ∧
    (load 0xfc [1] (machine 0 [] [])).isSome = true := ⟨rfl, by decide⟩

/-- A load that ends at the last word, and one that does not fit. -/
theorem witness_LoadWritesItsWordsAndNothingElse :
    (load 0xf8 [1, 2] (machine 0 [] [])).isSome = true ∧ load 0xf8 [1, 2, 3] (machine 0 [] []) = none ∧ 1 < [(1 : Word), 2].length := by
  decide

theorem witness_LoadKeepsTheInvariant :
    (machine 0 [(5, 9)] [(0, 0x0040028a), (63, 1)]).Inv ∧
    (load 0xf8 [1, 0] (machine 0 [(5, 9)] [(0, 0x0040028a), (63, 1)])).isSome = true := ⟨witness_machine_inv, by decide⟩

theorem witness_RunStopsAtNoProgressOrItsBudget :
    stepReport (machine 0 [] []) = .noProgress ∧ stepReport (machine 0 [] [(0, 0x00100083)]) = .progress ∧
    step (machine 0 [] [(0, 0x00100083)]) = .next (after (machine 0 [] [(0, 0x00100083)])) := ⟨by decide, by decide, rfl⟩

theorem witness_LoadDoesNotRestartAStoppedMachine :
    (after (machine 0 [] [])).runState ≠ .running ∧ (load 0 [0x00100083] (after (machine 0 [] []))).isSome = true := by decide

/-- The ends of each range. -/
theorem witness_OperandsAreAcceptedExactlyInRange :
    regOfIndex 31 = some 31 ∧ regOfIndex 32 = none ∧ imm12OfInt (-2048) = some 0x800 ∧ imm12OfInt 2048 = none ∧
    imm20OfInt 524287 = some 0x7ffff ∧ imm20OfInt (-524289) = none := by decide

theorem witness_AssembledWordsDecodeToMappedInstructions :
    assemble "sw x7 0 x8".toList = .ok [0x0003840a] ∧ (0x0003840a : Word) ∈ [(0x0003840a : Word)] := ⟨rfl, by decide⟩

/-- `nop` is not one of the thirteen, nor is `SET`. -/
theorem witness_SetIsTheOnlyPseudoInstruction :
    ['n', 'o', 'p'] ∉ asmMnemonics ∧ ['S', 'E', 'T'] ∉ asmMnemonics := by decide

/-- An instruction, an unmapped funct with a bit set that `add` would ignore, an illegal opcode, and a word of another row. -/
theorem witness_TheEncoderRefusesExactlyWhatHasNoWord :
    encodeChecked (.add 8 8 2) = some 0x00240404 ∧ encodeChecked (.unmappedOpF7 0xfffff004) = some 0xfffff004 ∧
    Instr.illegalOp11 0x0000000b ∈ illegalForms 0x0000000b ∧ ¬ (Instr.unmappedOpF3 0x0010b083).WellFormed := by decide

end Sys2Proof.Tests
end

section
/-! The integer value of the two sign-extended fields (00_scope.md R10): extension keeps the field's own signed value,
and that value is the unsigned one, less `2^N` when bit `N-1` is set. -/

namespace Sys2Proof.Machine

@[simp] theorem sext12_toInt (v : BitVec 12) : (sext12 v).toInt = v.toInt :=
  BitVec.toInt_signExtend_of_le (by decide)

@[simp] theorem sext20_toInt (v : BitVec 20) : (sext20 v).toInt = v.toInt :=
  BitVec.toInt_signExtend_of_le (by decide)

/-- R10's condition on the field, for every width `N = n + 1`. -/
theorem toInt_eq_ite_half_le_toNat {n : Nat} (v : BitVec (n + 1)) :
    v.toInt = if 2 ^ n ≤ v.toNat then (v.toNat : Int) - 2 ^ (n + 1) else (v.toNat : Int) := by
  have half : 2 * v.toNat < 2 ^ (n + 1) ↔ ¬ 2 ^ n ≤ v.toNat := by
    rw [Nat.pow_succ']
    omega
  rw [BitVec.toInt_eq_toNat_cond, if_congr half rfl rfl, ite_not]
  norm_cast

/-- Settles O6: the extended word has the field's signed value, and the sign bit of the field is set from half its range on. -/
theorem signExtensionKeepsTheSignedValue : Obligations.SignExtensionKeepsTheSignedValue :=
  ⟨fun v => (sext12_toInt v).trans (toInt_eq_ite_half_le_toNat v),
   fun v => (sext20_toInt v).trans (toInt_eq_ite_half_le_toNat v)⟩

end Sys2Proof.Machine
end

section
/-! What each update of the state does to the invariant (10_state.md R22, R29, R30, R32), and what keeps the parameters (R34).
Every change an instruction makes is an `Effect`; a case per effect settles both. -/

namespace Sys2Proof.Machine

namespace State.Inv
variable {s : State}

theorem raise (h : s.Inv) (f : Fault) : (s.raise f).Inv :=
  { h with recordIffFaulted := by simp }

theorem halt (h : s.Inv) (hr : s.runState = .running) : s.halt.Inv where
  memCanonical := h.memCanonical
  memInRange := h.memInRange
  x0Zero := h.x0Zero
  paramsLegal := h.paramsLegal
  recordIffFaulted := by simpa [hr] using h.recordIffFaulted

theorem setPc (h : s.Inv) (p : Word) : (s.setPc p).Inv := { h with }

theorem writeReg (h : s.Inv) (r : RegIdx) (v : Word) : (s.writeReg r v).Inv where
  memCanonical := by simpa using h.memCanonical
  memInRange := by simpa using h.memInRange
  x0Zero := by simpa using h.x0Zero
  paramsLegal := by simpa using h.paramsLegal
  recordIffFaulted := by simpa using h.recordIffFaulted

theorem writeMem (h : s.Inv) {k : Nat} (hk : k < s.params.memWords) (v : Word) :
    ({ s with mem := s.mem.write k v } : State).Inv where
  memCanonical := Memory.wf_write h.memCanonical k v
  memInRange := fun p hp => (Memory.mem_write s.mem k v p hp).elim (fun e => e ▸ hk) (h.memInRange p)
  x0Zero := h.x0Zero
  paramsLegal := h.paramsLegal
  recordIffFaulted := h.recordIffFaulted

/-- Only a RUNNING machine keeps the invariant under every effect: a FAULTED one that halted would keep its record. -/
theorem effect {t : State} (h : s.Inv) (hr : s.runState = .running) (he : Effect s t) : t.Inv := by
  cases he with
  | halts => exact h.halt hr
  | faults f => exact h.raise f
  | writes rd v p => exact (h.writeReg rd v).setPc p
  | stores k v hk => exact (h.writeMem hk v).setPc _
  | moves p => exact h.setPc p

end State.Inv

/-- Settles O45: a stopped machine stays as it is, and every effect on a RUNNING one keeps the invariant. -/
theorem everyStepKeepsTheInvariant : Obligations.EveryStepKeepsTheInvariant := by
  intro s t hs h
  rcases step_cases h with ⟨-, rfl⟩ | ⟨-, f, -, rfl⟩ | ⟨hr, w, -, hx⟩
  · exact hs
  · exact hs.raise f
  · exact hs.effect hr (exec_effect hx)

theorem Effect.params_eq {s t : State} (h : Effect s t) : t.params = s.params := by
  cases h <;> simp

theorem step_params {s t : State} (h : step s = .next t) : t.params = s.params := by
  rcases step_effect h with rfl | he
  · rfl
  · exact he.params_eq

theorem load_params {offset : Word} {words : List Word} {s t : State} (h : load offset words s = some t) :
    t.params = s.params := by
  obtain ⟨-, ht⟩ := Option.ite_none_right_eq_some.1 h
  cases ht
  rfl

theorem run_params (n : Nat) (s : State) : (run n s).params = s.params := by
  induction n generalizing s with
  | zero => rfl
  | succ n ih =>
    unfold run
    split
    · next t h =>
      split
      · exact (ih t).trans (step_params h)
      · exact step_params h
    · rfl
    · rfl

/-- Settles O46: no effect touches the parameters, a load writes memory alone, and a run is made of steps. -/
theorem parametersNeverChange : Obligations.ParametersNeverChange :=
  ⟨fun _ _ => step_params, fun _ _ _ _ => load_params, run_params⟩

/-! ## Creation (R33) -/

@[simp] theorem State.create_x (p : Params) (r : RegIdx) : (State.create p).x r = 0 := by
  simp [State.create, State.x]

/-- Settles O43: the values of R33, read off the created state. -/
theorem creationZeroesRegistersPcAndMemory : Obligations.CreationZeroesRegistersPcAndMemory :=
  ⟨⟨resetParams, rfl⟩, fun p => ⟨State.create_x p, rfl, Memory.read_nil, rfl, rfl⟩⟩

theorem State.create_inv {p : Params} (hp : p.wf) : (State.create p).Inv where
  memCanonical := Memory.wf_nil
  memInRange := by simp [State.create]
  x0Zero := State.create_x p 0
  paramsLegal := hp
  recordIffFaulted := by simp [State.create]

/-- Settles O44: the parameters of State.reset are legal, its MEM_WORDS being the largest that R7 allows. -/
theorem createdMachinesMeetTheInvariant : Obligations.CreatedMachinesMeetTheInvariant :=
  ⟨fun _ => State.create_inv, State.create_inv (by decide)⟩

end Sys2Proof.Machine
end

section
/-! What an instruction does, said once for all 37 rows by the tables of the spec: `hlt` halts (R120), an instruction with a fault
takes it (R186), and every other one writes its destination (R24), makes its store (R125, R166) and moves the pc (R27, R105). -/

namespace Sys2Proof.Machine

/-- The word an instruction writes to its destination. -/
def resultOf (s : State) : Instr → Word
  | .get _ base offset => s.mem.read (wordIndex (regRegAddress s base offset))
  | .addi _ rs1 imm => alu .add (s.x rs1) (sext12 imm)
  | .slti _ rs1 imm => alu .slt (s.x rs1) (sext12 imm)
  | .add _ rs1 rs2 => alu .add (s.x rs1) (s.x rs2)
  | .mlt _ rs1 rs2 => alu .mul (s.x rs1) (s.x rs2)
  | .jal _ _ => s.pc + s.params.linkInc
  | .lui _ imm => alu .shl12 (sext20 imm) 0
  | .lw _ rs1 imm => s.mem.read (wordIndex (regImmAddress s rs1 imm))
  | _ => 0

/-- The memory after an instruction that completes. -/
def memoryAfter (s : State) (i : Instr) : Memory :=
  match storeOf s i with
  | some (a, v) => s.mem.write (wordIndex a) v
  | none => s.mem

/-- The state with an instruction's result in its destination. -/
def State.writeResult (s : State) (i : Instr) : State :=
  match destination i with
  | some rd => s.writeReg rd (resultOf s i)
  | none => s

/-- The state after an instruction that completes. -/
def State.completed (s : State) (i : Instr) : State :=
  { s.writeResult i with mem := memoryAfter s i, pc := pcBeforeAdvance s i + 4 }

/-- The fault of an instruction once it is fetched (R182): of its data access, or IllegalOpcode with the word its term carries. -/
def execFault (s : State) (i : Instr) : Option Fault :=
  match dataAccessOf s i with
  | some (kind, a) => accessFault s kind a
  | none =>
    if i ∈ illegalForms (encode i) ∨ (i ∈ unmappedForms (encode i) ∧ s.params.unmappedPolicy = .fault) then
      some (.illegalOpcode (encode i))
    else none

/-! ## The fields of a completed instruction's state -/

section Completed
variable (s : State) (i : Instr)

theorem memoryAfter_of_store {a v : Word} (h : storeOf s i = some (a, v)) :
    memoryAfter s i = s.mem.write (wordIndex a) v := by simp [memoryAfter, h]

theorem memoryAfter_of_no_store (h : storeOf s i = none) : memoryAfter s i = s.mem := by simp [memoryAfter, h]

theorem State.writeResult_x (r : RegIdx) :
    (s.writeResult i).x r = if destination i = some r ∧ r ≠ 0 then resultOf s i else s.x r := by
  unfold State.writeResult
  cases destination i with
  | none => simp
  | some rd =>
    rw [State.writeReg_x]
    by_cases hr : r = rd
    · subst hr; simp
    · simp [hr, Ne.symm hr]

@[simp] theorem State.completed_x (r : RegIdx) :
    (s.completed i).x r = if destination i = some r ∧ r ≠ 0 then resultOf s i else s.x r :=
  s.writeResult_x i r
@[simp] theorem State.completed_pc : (s.completed i).pc = pcBeforeAdvance s i + 4 := rfl
@[simp] theorem State.completed_mem : (s.completed i).mem = memoryAfter s i := rfl
@[simp] theorem State.completed_runState : (s.completed i).runState = s.runState := by
  unfold State.completed State.writeResult; split <;> simp
@[simp] theorem State.completed_faultRecord : (s.completed i).faultRecord = s.faultRecord := by
  unfold State.completed State.writeResult; split <;> simp
@[simp] theorem State.completed_params : (s.completed i).params = s.params := by
  unfold State.completed State.writeResult; split <;> simp
end Completed

section Destination
variable (s : State) {i : Instr} {rd : RegIdx} (hd : destination i = some rd) (hm : storeOf s i = none)
include hd hm

/-- An instruction that writes a register and no memory. -/
theorem State.completed_of_destination :
    s.completed i = ((s.writeReg rd (resultOf s i)).setPc (pcBeforeAdvance s i)).advance := by
  have hr : s.writeResult i = s.writeReg rd (resultOf s i) := by simp [State.writeResult, hd]
  rw [State.completed, hr, memoryAfter_of_no_store s i hm, ← State.writeReg_mem s rd (resultOf s i)]
  rfl

/-- One that falls through to the next instruction besides. -/
theorem State.completed_of_fallThrough (hp : pcBeforeAdvance s i = s.pc) :
    s.completed i = s.writeBack rd (resultOf s i) := by
  rw [State.completed_of_destination s hd hm, hp, ← State.writeReg_pc s rd (resultOf s i), State.setPc_self]
  rfl
end Destination

/-! ## The shared ends of a handler -/

theorem accessFault_eq_none_iff {s : State} {kind : AccessKind} {a : Word} :
    accessFault s kind a = none ↔ s.Accessible a := by
  unfold accessFault State.Accessible
  split
  · simp_all
  · split <;> simp_all

theorem accessFault_of_misaligned {s : State} {a : Word} (h : a.extractLsb' 0 2 ≠ 0) (kind : AccessKind) :
    accessFault s kind a = some (.misalignedAccess kind a) := if_pos h

theorem accessFault_of_outOfRange {s : State} {a : Word} (h0 : a.extractLsb' 0 2 = 0)
    (h1 : s.params.memWords ≤ wordIndex a) (kind : AccessKind) :
    accessFault s kind a = some (.accessOutOfRange kind a) := by
  simp [accessFault, h0, h1]

theorem loadInto_eq (rd : RegIdx) (a : Word) (s : State) :
    loadInto rd a s = .next ((accessFault s .dataRead a).elim (s.writeBack rd (s.mem.read (wordIndex a))) s.raise) := by
  rcases loadInto_cases rd a s with ⟨h0, h1, e⟩ | ⟨h0, e⟩ | ⟨h0, h1, e⟩
  · rw [e, accessFault_eq_none_iff.2 ⟨h0, h1⟩, Option.elim_none]
  · rw [e, accessFault_of_misaligned h0, Option.elim_some]
  · rw [e, accessFault_of_outOfRange h0 h1, Option.elim_some]

theorem storeAt_eq (a v : Word) (s : State) :
    storeAt a v s = .next ((accessFault s .dataWrite a).elim
      (State.advance { s with mem := s.mem.write (wordIndex a) v }) s.raise) := by
  rcases storeAt_cases a v s with ⟨h0, h1, e⟩ | ⟨h0, e⟩ | ⟨h0, h1, e⟩
  · rw [e, accessFault_eq_none_iff.2 ⟨h0, h1⟩, Option.elim_none]
  · rw [e, accessFault_of_misaligned h0, Option.elim_some]
  · rw [e, accessFault_of_outOfRange h0 h1, Option.elim_some]

theorem alu_ne_eq_one_iff (p q : Word) : alu .ne p q = 1 ↔ p ≠ q := by
  simp [alu, neValue]

/-! ## The instructions -/

theorem execFault_of_no_access {s : State} {i : Instr} (ha : dataAccessOf s i = none)
    (hw : ∀ w, i ∉ illegalForms w ∧ i ∉ unmappedForms w) : execFault s i = none := by
  simp [execFault, ha, hw]

/-- What the twenty unmapped rows have in common, whatever word they carry (R97). -/
theorem of_mem_unmappedForms {i : Instr} {w : Word} (h : i ∈ unmappedForms w) (s : State) :
    encode i = w ∧ i ∉ illegalForms w ∧ dataAccessOf s i = none ∧ s.completed i = s.advance ∧
      exec i s = unmappedFunct w s := by
  revert i
  simp only [unmappedForms, List.forall_mem_cons, List.not_mem_nil, IsEmpty.forall_iff, implies_true, and_true]
  refine ⟨?_, ?_, ?_, ?_, ?_, ?_, ?_, ?_, ?_, ?_, ?_, ?_, ?_, ?_, ?_, ?_, ?_, ?_, ?_, ?_⟩
  all_goals exact ⟨rfl, by simp [illegalForms], rfl, rfl, rfl⟩

/-- What the five illegal rows have in common (R72). -/
theorem of_mem_illegalForms {i : Instr} {w : Word} (h : i ∈ illegalForms w) (s : State) :
    encode i = w ∧ dataAccessOf s i = none ∧ exec i s = illegalOpcode w s := by
  revert i
  simp only [illegalForms, List.forall_mem_cons, List.not_mem_nil, IsEmpty.forall_iff, implies_true, and_true]
  exact ⟨⟨rfl, rfl, rfl⟩, ⟨rfl, rfl, rfl⟩, ⟨rfl, rfl, rfl⟩, ⟨rfl, rfl, rfl⟩, rfl, rfl, rfl⟩

theorem exec_of_completes {i : Instr} {s : State} (hf : execFault s i = none) (he : exec i s = .next (s.completed i)) :
    exec i s = .next ((execFault s i).elim (s.completed i) s.raise) := by
  rw [he, hf, Option.elim_none]

theorem exec_of_unmapped {i : Instr} {w : Word} (h : i ∈ unmappedForms w) (s : State) :
    exec i s = .next ((execFault s i).elim (s.completed i) s.raise) := by
  obtain ⟨hw, hi, ha, hc, he⟩ := of_mem_unmappedForms h s
  rw [he, hc]
  rcases unmappedFunct_cases w s with ⟨hp, e⟩ | ⟨hp, e⟩ <;> simp [e, execFault, ha, hw, h, hi, hp]

theorem exec_of_illegal {i : Instr} {w : Word} (h : i ∈ illegalForms w) (s : State) :
    exec i s = .next ((execFault s i).elim (s.completed i) s.raise) := by
  obtain ⟨hw, ha, he⟩ := of_mem_illegalForms h s
  simp [he, illegalOpcode, execFault, ha, hw, h]

theorem exec_bne (rs1 rs2 : RegIdx) (imm : BitVec 12) (s : State) :
    exec (.bne rs1 rs2 imm) s = .next (s.setPc (pcBeforeAdvance s (.bne rs1 rs2 imm))).advance := by
  simp only [exec, execBne, alu_ne_eq_one_iff, pcBeforeAdvance]
  split <;> rfl

/-- Every instruction but `hlt` takes its fault, or else completes. -/
theorem exec_eq {i : Instr} (h : i ≠ .hlt) (s : State) :
    exec i s = .next ((execFault s i).elim (s.completed i) s.raise) := by
  cases i
  case hlt => exact absurd rfl h
  case put | sw => exact storeAt_eq _ _ s
  case get | lw =>
    rw [State.completed_of_fallThrough s rfl rfl rfl]
    exact loadInto_eq _ _ s
  case addi | slti | add | mlt | lui =>
    refine exec_of_completes (execFault_of_no_access rfl (by simp [illegalForms, unmappedForms])) ?_
    rw [State.completed_of_fallThrough s rfl rfl rfl]
    rfl
  case jal =>
    refine exec_of_completes (execFault_of_no_access rfl (by simp [illegalForms, unmappedForms])) ?_
    rw [State.completed_of_destination s rfl rfl]
    rfl
  case bne =>
    exact exec_of_completes (execFault_of_no_access rfl (by simp [illegalForms, unmappedForms])) (exec_bne ..)
  case illegalOp11 w | illegalOp12to15 w | illegalOp16to31 w | illegalOp32to63 w | illegalOp64to127 w =>
    exact exec_of_illegal (w := w) (by simp [illegalForms]) s
  all_goals
    rename_i w
    exact exec_of_unmapped (w := w) (by simp [unmappedForms]) s

/-- The three ends of an instruction. -/
theorem exec_cases {i : Instr} {s t : State} (h : exec i s = .next t) :
    (i = .hlt ∧ t = s.halt) ∨ (i ≠ .hlt ∧ ∃ f, execFault s i = some f ∧ t = s.raise f) ∨
    (i ≠ .hlt ∧ execFault s i = none ∧ t = s.completed i) := by
  by_cases hi : i = .hlt
  · subst hi
    cases h
    exact .inl ⟨rfl, rfl⟩
  · rw [exec_eq hi] at h
    cases hf : execFault s i with
    | some f => rw [hf] at h; cases h; exact .inr (.inl ⟨hi, f, rfl, rfl⟩)
    | none => rw [hf] at h; cases h; exact .inr (.inr ⟨hi, rfl, rfl⟩)

end Sys2Proof.Machine
end

section
/-! The words of `hlt` (30_encoding.md R69 to R71). -/

namespace Sys2Proof

theorem Opcode.ofBits_eq_some_hlt_iff (b : BitVec 7) : Opcode.ofBits b = some .hlt ↔ b = 0 := by
  revert b; decide

theorem decodeImm_ne_hlt (w : Word) : decodeImm w ≠ .hlt := by unfold decodeImm; split <;> simp
theorem decodeOp_ne_hlt (w : Word) : decodeOp w ≠ .hlt := by unfold decodeOp; split <;> simp
theorem decodeBranch_ne_hlt (w : Word) : decodeBranch w ≠ .hlt := by unfold decodeBranch; split <;> simp
theorem decodeIllegal_ne_hlt (w : Word) : decodeIllegal w ≠ .hlt := by simp only [decodeIllegal]; split_ifs <;> simp

theorem decode_eq_hlt_iff (w : Word) : decode w = .hlt ↔ w.extractLsb' 0 7 = 0 := by
  rw [← Opcode.ofBits_eq_some_hlt_iff, ← opcodeField]
  unfold decode
  split <;> simp [*, decodeImm_ne_hlt, decodeOp_ne_hlt, decodeBranch_ne_hlt, decodeIllegal_ne_hlt]

end Sys2Proof
end

section
/-! The registers, the memory and the pc in every instruction and every step (10_state.md R23, R24, R27, R29, R32). -/

namespace Sys2Proof.Machine

/-! ## Registers -/

/-- A register keeps its value in every instruction of which it is not the destination, and x0 always. -/
theorem exec_x_of_not_written {i : Instr} {s t : State} (h : exec i s = .next t) {r : RegIdx}
    (hr : destination i = some r → r = 0) : t.x r = s.x r := by
  rcases exec_cases h with ⟨-, rfl⟩ | ⟨-, f, -, rfl⟩ | ⟨-, -, rfl⟩
  · rfl
  · rfl
  · rw [State.completed_x, if_neg fun hd => hd.2 (hr hd.1)]

/-- Settles O31: the write routine discards a write to x0, and no instruction with that destination writes another register. -/
theorem writesToRegisterZeroAreDiscarded : Obligations.WritesToRegisterZeroAreDiscarded := by
  refine ⟨State.writeReg_zero, fun s r q v hr => by simp [State.writeReg_x, hr], fun i s t hd h r => ?_⟩
  exact exec_x_of_not_written h fun hr => (Option.some.inj (hd.symm.trans hr)).symm

/-- Settles O32: no end of an instruction writes a register but its destination. -/
theorem onlyTheDestinationRegisterChanges : Obligations.OnlyTheDestinationRegisterChanges :=
  fun _ _ _ h _ hd => exec_x_of_not_written h fun e => absurd e hd

/-! ## Dependence on registers

Each table about an instruction reads the registers in its sources and no other. -/

/-- Two machines that differ at most in registers outside the sources of an instruction. -/
structure AgreeOnSources (i : Instr) (s s' : State) : Prop where
  x : ∀ r ∈ sources i, s.x r = s'.x r
  pc : s.pc = s'.pc
  mem : s.mem = s'.mem
  runState : s.runState = s'.runState
  faultRecord : s.faultRecord = s'.faultRecord
  params : s.params = s'.params

section AgreeOnSources
variable {i : Instr} {s s' : State} (h : AgreeOnSources i s s')
include h

theorem AgreeOnSources.dataAccessOf_eq : dataAccessOf s i = dataAccessOf s' i := by
  have hx := h.x
  cases i <;> simp_all [sources, dataAccessOf, regRegAddress, regImmAddress]

theorem AgreeOnSources.storeOf_eq : storeOf s i = storeOf s' i := by
  have hx := h.x
  cases i <;> simp_all [sources, storeOf, regRegAddress, regImmAddress]

theorem AgreeOnSources.pcBeforeAdvance_eq : pcBeforeAdvance s i = pcBeforeAdvance s' i := by
  have hx := h.x
  have hpc := h.pc
  cases i <;> simp_all [sources, pcBeforeAdvance]

theorem AgreeOnSources.resultOf_eq : resultOf s i = resultOf s' i := by
  obtain ⟨hx, hpc, hm, -, -, hp⟩ := h
  cases i <;> simp_all [sources, resultOf, regRegAddress, regImmAddress]

theorem AgreeOnSources.memoryAfter_eq : memoryAfter s i = memoryAfter s' i := by
  simp only [memoryAfter, h.storeOf_eq, h.mem]

theorem AgreeOnSources.execFault_eq : execFault s i = execFault s' i := by
  simp only [execFault, accessFault, h.dataAccessOf_eq, h.params]
end AgreeOnSources

/-- Settles O33: the machines take the same of the three ends, and each end reads the sources alone. -/
theorem onlyTheSourceRegistersMatter : Obligations.OnlyTheSourceRegistersMatter := by
  intro i s s' t t' hx hpc hm hr hr' hf hp he he'
  have ha : AgreeOnSources i s s' := ⟨hx, hpc, hm, hr.trans hr'.symm, hf, hp⟩
  by_cases hi : i = .hlt
  · subst hi
    cases he
    cases he'
    simp [hpc, hm, hf, hp]
  · rw [exec_eq hi] at he he'
    rw [← ha.execFault_eq] at he'
    cases hfault : execFault s i <;> rw [hfault] at he he' <;> cases he <;> cases he'
    · simp +contextual [ha.pcBeforeAdvance_eq, ha.memoryAfter_eq, ha.resultOf_eq, ha.runState, hf, hp]
    · simp [hpc, hm, hp]

/-! ## Memory -/

theorem exec_mem_of_no_store {i : Instr} {s t : State} (h : exec i s = .next t) (hs : storeOf s i = none) :
    t.mem = s.mem := by
  rcases exec_cases h with ⟨-, rfl⟩ | ⟨-, f, -, rfl⟩ | ⟨-, -, rfl⟩
  · rfl
  · rfl
  · exact memoryAfter_of_no_store s i hs

theorem dataAccessOf_of_store {i : Instr} {s : State} {a v : Word} (hs : storeOf s i = some (a, v)) :
    dataAccessOf s i = some (.dataWrite, a) := by
  cases i <;> simp_all [storeOf, dataAccessOf]

/-- A store faults exactly where its address is not accessible. -/
theorem execFault_eq_none_iff_of_store {i : Instr} {s : State} {a v : Word} (hs : storeOf s i = some (a, v)) :
    execFault s i = none ↔ s.Accessible a := by
  rw [execFault, dataAccessOf_of_store hs, accessFault_eq_none_iff]

theorem exec_mem_of_store {i : Instr} {s t : State} {a v : Word} (h : exec i s = .next t)
    (hs : storeOf s i = some (a, v)) : t.mem = if s.Accessible a then s.mem.write (wordIndex a) v else s.mem := by
  have hacc := execFault_eq_none_iff_of_store hs
  rcases exec_cases h with ⟨rfl, rfl⟩ | ⟨-, f, hf, rfl⟩ | ⟨-, hf, rfl⟩
  · cases hs
  · rw [if_neg fun ha => by simp [hacc.2 ha] at hf, State.raise_mem]
  · rw [if_pos (hacc.1 hf), State.completed_mem, memoryAfter_of_store s i hs]

/-- Settles O38: a store writes one word, where it is accessible, and nothing else writes memory. -/
theorem onlyStoresChangeMemory : Obligations.OnlyStoresChangeMemory := by
  refine fun i s t h => ⟨exec_mem_of_no_store h, fun a v hs => ?_⟩
  rw [exec_mem_of_store h hs]
  refine ⟨fun k hk => ?_, fun ha => if_neg ha, fun ha => ?_⟩
  · split
    · exact Memory.read_write_other s.mem v hk
    · rfl
  · rw [if_pos ha, Memory.read_write_self]

/-! ## The step of a RUNNING machine -/

theorem fetch_cases (s : State) :
    (s.Accessible s.pc ∧ s.fetch = .ok s.fetchedWord) ∨ (¬ s.Accessible s.pc ∧ ∃ f, s.fetch = .error f) := by
  rcases memRead_cases s .fetch s.pc with ⟨h0, h1, e⟩ | ⟨h0, e⟩ | ⟨-, h1, e⟩
  · exact .inl ⟨⟨h0, h1⟩, e⟩
  · exact .inr ⟨fun ha => h0 ha.1, _, e⟩
  · exact .inr ⟨fun ha => Nat.not_lt.2 h1 ha.2, _, e⟩

/-- It faults at its fetch, or runs the instruction that the word at the pc decodes to. -/
theorem step_cases_of_running {s t : State} (hr : s.runState = .running) (h : step s = .next t) :
    (¬ s.Accessible s.pc ∧ ∃ f, t = s.raise f) ∨ (s.Accessible s.pc ∧ exec (decode s.fetchedWord) s = .next t) := by
  rcases fetch_cases s with ⟨ha, hf⟩ | ⟨ha, f, hf⟩ <;> simp only [step, hr, hf] at h
  · exact .inr ⟨ha, h⟩
  · cases h
    exact .inl ⟨ha, f, rfl⟩

/-- Settles O27: of the ends of a step only that of `hlt` is HALTED. -/
theorem haltedOnlyByTheHaltOpcode : Obligations.HaltedOnlyByTheHaltOpcode := by
  intro s t hr h
  rw [← decode_eq_hlt_iff]
  rcases step_cases_of_running hr h with ⟨ha, f, rfl⟩ | ⟨ha, he⟩
  · simp [ha]
  · rcases exec_cases he with ⟨hi, rfl⟩ | ⟨hi, f, -, rfl⟩ | ⟨hi, -, rfl⟩
    · simpa [hi] using ha
    · simp [hi]
    · simp [hi, hr]

/-- Settles O28: a halt and a fault leave the pc, and a completed instruction leaves the machine RUNNING. -/
theorem howThePcMoves : Obligations.HowThePcMoves := by
  refine ⟨fun _ => rfl, fun s t hr h => ?_⟩
  rcases step_cases_of_running hr h with ⟨-, f, rfl⟩ | ⟨-, he⟩
  · simp
  · rcases exec_cases he with ⟨-, rfl⟩ | ⟨-, f, -, rfl⟩ | ⟨-, -, rfl⟩
    · simp
    · simp
    · simp [hr]

end Sys2Proof.Machine
end

section
/-! The check of an access, what MemRead, MemWrite and a fetch do by its outcome, and the fetch of a stored word
(20_memory.md R40 to R45, R53). -/

namespace Sys2Proof.Machine

/-! ## The address in arithmetic (R40, R41) -/

theorem extractLsb'_zero_two_eq_zero_iff (a : Word) : a.extractLsb' 0 2 = 0 ↔ a.toNat % 4 = 0 := by
  simp [← BitVec.toNat_inj]

theorem wordIndex_eq_toNat_div (a : Word) : wordIndex a = a.toNat / 4 := by
  have ha := a.isLt
  simp only [wordIndex, BitVec.extractLsb'_toNat, Nat.shiftRight_eq_div_pow]
  omega

/-- Settles O35: the word index is the address divided by 4, and each outcome of the check has its own condition on it. -/
theorem checkAcceptsTheWordsOfMemory : Obligations.CheckAcceptsTheWordsOfMemory := by
  intro n a
  have h := checkAddress_cases n a
  rw [ne_eq, extractLsb'_zero_two_eq_zero_iff, wordIndex_eq_toNat_div] at h
  rcases h with ⟨h0, h1, e⟩ | ⟨h0, e⟩ | ⟨h0, h1, e⟩ <;> rw [e]
  · refine ⟨fun k => ?_, ?_, ?_⟩ <;> simp only [Checked.ok.injEq, reduceCtorEq, false_iff] <;> omega
  · refine ⟨fun k => ?_, ?_, ?_⟩ <;> simp only [reduceCtorEq, false_iff, true_iff] <;> omega
  · refine ⟨fun k => ?_, ?_, ?_⟩ <;> simp only [reduceCtorEq, false_iff, true_iff] <;> omega

/-! ## MemRead and MemWrite by the outcome of the check (R43, R44) -/

section Accesses
variable {s : State} {a : Word}

theorem memRead_of_accessible (h : s.Accessible a) (kind : AccessKind) :
    s.memRead kind a = .ok (s.mem.read (wordIndex a)) := by
  simp [State.memRead, checkAddress_ok h.1 h.2]

theorem memRead_of_misaligned (h : a.extractLsb' 0 2 ≠ 0) (kind : AccessKind) :
    s.memRead kind a = .error (.misalignedAccess kind a) := by
  simp [State.memRead, checkAddress_misaligned h]

theorem memRead_of_outOfRange (h0 : a.extractLsb' 0 2 = 0) (h1 : s.params.memWords ≤ wordIndex a) (kind : AccessKind) :
    s.memRead kind a = .error (.accessOutOfRange kind a) := by
  simp [State.memRead, checkAddress_outOfRange h0 h1]

theorem memWrite_of_accessible (h : s.Accessible a) (v : Word) :
    s.memWrite a v = .ok { s with mem := s.mem.write (wordIndex a) v } := by
  simp [State.memWrite, checkAddress_ok h.1 h.2]

theorem memWrite_of_misaligned (h : a.extractLsb' 0 2 ≠ 0) (v : Word) :
    s.memWrite a v = .error (.misalignedAccess .dataWrite a) := by
  simp [State.memWrite, checkAddress_misaligned h]

theorem memWrite_of_outOfRange (h0 : a.extractLsb' 0 2 = 0) (h1 : s.params.memWords ≤ wordIndex a) (v : Word) :
    s.memWrite a v = .error (.accessOutOfRange .dataWrite a) := by
  simp [State.memWrite, checkAddress_outOfRange h0 h1]
end Accesses

theorem OnlyMemory.of_write (s : State) (a v : Word) :
    OnlyMemory s { s with mem := s.mem.write (wordIndex a) v } a v where
  written := Memory.read_write_self ..
  others := fun _ hk => Memory.read_write_other s.mem v hk
  regs := State.withMem_x s _
  runState := rfl
  faultRecord := rfl
  params := rfl

theorem OnlyMemory.memRead {s t : State} {a v : Word} (h : OnlyMemory s t a v) (ha : s.Accessible a)
    (kind : AccessKind) : t.memRead kind a = .ok v := by
  have ht : t.Accessible a := by rwa [State.Accessible, h.params]
  rw [memRead_of_accessible ht, h.written]

/-- Settles O37: the written state keeps the parameters, so the address is accessible in it and reads as the word written. -/
theorem memWriteReplacesExactlyOneWord : Obligations.MemWriteReplacesExactlyOneWord := by
  refine fun s a v => ⟨fun ha => ?_, fun h0 => memWrite_of_misaligned h0 v, fun h0 h1 => memWrite_of_outOfRange h0 h1 v⟩
  have hw := OnlyMemory.of_write s a v
  exact ⟨_, memWrite_of_accessible ha v, rfl, hw, hw.memRead ha⟩

/-! ## The fetch (R45) -/

theorem State.raise_faultTaken (s : State) (f : Fault) : FaultTaken s (s.raise f) f where
  faulted := rfl
  record := rfl
  regs := s.raise_x f
  pc := rfl
  mem := rfl
  params := rfl

theorem step_of_fetch_error {s : State} {f : Fault} (hr : s.runState = .running) (hf : s.fetch = .error f) :
    step s = .next (s.raise f) := by
  simp [step, hr, hf]

theorem step_of_canFetch {s : State} (h : s.CanFetch) : step s = exec (decode s.fetchedWord) s := by
  have hf : s.fetch = .ok s.fetchedWord := memRead_of_accessible h.2 .fetch
  simp [step, h.1, hf]

theorem step_takes_fetch_fault {s : State} {f : Fault} (hr : s.runState = .running) (hf : s.fetch = .error f) :
    ∃ t, step s = .next t ∧ FaultTaken s t f :=
  ⟨_, step_of_fetch_error hr hf, s.raise_faultTaken f⟩

/-- Settles O24: a fetch is MemRead at the pc with the kind FETCH, so it has the three cases of an access. -/
theorem fetchIsCheckedLikeData : Obligations.FetchIsCheckedLikeData :=
  fun _ hr =>
    ⟨fun h0 => step_takes_fetch_fault hr (memRead_of_misaligned h0 _),
     fun h0 h1 => step_takes_fetch_fault hr (memRead_of_outOfRange h0 h1 _),
     fun ha => step_of_canFetch ⟨hr, ha⟩⟩

/-! ## The readers of memory -/

/-- A load writes back or takes the fault of its read, and changes no memory either way. -/
theorem loadInto_reads (rd : RegIdx) (a : Word) (s : State) :
    ∃ t, loadInto rd a s = .next t ∧ t.mem = s.mem ∧
      ∀ f, s.memRead .dataRead a = .error f → FaultTaken s t f := by
  unfold loadInto
  cases s.memRead .dataRead a with
  | ok v => exact ⟨_, rfl, s.writeBack_mem rd v, nofun⟩
  | error f => exact ⟨_, rfl, rfl, fun | _, rfl => s.raise_faultTaken f⟩

/-- Settles O36: MemRead by the cases of its check; `lw` and `get` are loads, and a fetch that fails is the step's fault. -/
theorem memReadReturnsTheWordOrItsFault : Obligations.MemReadReturnsTheWordOrItsFault :=
  fun s =>
    ⟨fun kind _ =>
      ⟨fun ha => memRead_of_accessible ha kind,
       fun h0 => memRead_of_misaligned h0 kind,
       fun h0 h1 => memRead_of_outOfRange h0 h1 kind⟩,
     fun hr _ hf => step_takes_fetch_fault hr hf,
     fun rd rs1 imm => loadInto_reads rd (regImmAddress s rs1 imm) s,
     fun value base offset => loadInto_reads value (regRegAddress s base offset) s⟩

/-! ## Stores and later fetches (R53) -/

/-- Settles O39: the store writes v where the later state fetches, and keeps the parameters that make its pc accessible. -/
theorem storesAreSeenByLaterFetches : Obligations.StoresAreSeenByLaterFetches := by
  intro i s t u a v hs ha he hm hp hr hpc
  have hparams : u.params = s.params := hp.trans (exec_effect he).params_eq
  have hu : u.Accessible u.pc := by rwa [State.Accessible, hpc, hparams]
  have hv : u.fetchedWord = v := by
    rw [State.fetchedWord, hpc, hm, exec_mem_of_store he hs, if_pos ha, Memory.read_write_self]
  rw [step_of_canFetch ⟨hr, hu⟩, hv]

end Sys2Proof.Machine
end

section
/-! The canonical memory list holds exactly the pairs of an index and its word other than 0 (log entry 7). -/

namespace Sys2Proof.Machine

theorem Memory.mem_of_read_ne_zero {m : Memory} {k : Nat} (h : m.read k ≠ 0) : (k, m.read k) ∈ m := by
  induction m with
  | nil => exact absurd (Memory.read_nil k) h
  | cons p m ih =>
    obtain ⟨a, u⟩ := p
    simp only [Memory.read] at h ⊢
    split
    next hk => simp [hk]
    next hk =>
      rw [if_neg hk] at h
      exact List.mem_cons_of_mem _ (ih h)

theorem Memory.read_of_mem {m : Memory} (h : m.Pairwise (fun p q => p.1 < q.1)) {p : Nat × Word} (hp : p ∈ m) :
    m.read p.1 = p.2 := by
  induction m with
  | nil => cases hp
  | cons q m ih =>
    obtain ⟨hlt, hm⟩ := List.pairwise_cons.1 h
    rcases List.mem_cons.1 hp with rfl | hp
    · exact if_pos rfl
    · exact (if_neg (hlt p hp).ne).trans (ih hm hp)

theorem Memory.mem_iff_read {m : Memory} (h : m.wf) (p : Nat × Word) : p ∈ m ↔ p.2 ≠ 0 ∧ m.read p.1 = p.2 := by
  refine ⟨fun hp => ⟨h.2 p hp, Memory.read_of_mem h.1 hp⟩, fun ⟨h0, hr⟩ => ?_⟩
  have hmem : (p.1, m.read p.1) ∈ m := Memory.mem_of_read_ne_zero (hr ▸ h0)
  rwa [hr] at hmem

/-- Settles O40: the reads give the members, and a list in strictly rising order is determined by its members. -/
theorem canonicalMemoriesThatReadAlikeAreEqual : Obligations.CanonicalMemoriesThatReadAlikeAreEqual := by
  intro m m' h h' hread
  have hasymm : Std.Asymm (fun p q : Nat × Word => p.1 < q.1) := ⟨fun _ _ => Nat.lt_asymm⟩
  have hmem : ∀ p, p ∈ m ↔ p ∈ m' := fun p => by rw [Memory.mem_iff_read h, Memory.mem_iff_read h', hread]
  exact h.1.eq_of_mem_iff h'.1 hmem

end Sys2Proof.Machine
end

section
/-! The round trip of the encoder and the decoder (30_encoding.md R64 to R75). The shape of an instruction
puts its word together again from the fields, and a row that carries its word whole is known by that word's opcode and funct. -/

namespace Sys2Proof

/-! ## A word from its fields (R64, R65) -/

theorem regBits_fieldC (w : Word) : regBits (fieldC w) = w.extractLsb' 7 5 := rfl
theorem regBits_fieldA (w : Word) : regBits (fieldA w) = w.extractLsb' 15 5 := rfl
theorem regBits_fieldB (w : Word) : regBits (fieldB w) = w.extractLsb' 20 5 := rfl

section Shapes
variable {w : Word} {o : Opcode} (ho : opcodeField w = o.bits)
include ho

theorem encodeR_fields : encodeR o (functField w) (fieldC w) (fieldA w) (fieldB w) = w &&& 0x01ffffff := by
  rw [encodeR, ← ho, regBits_fieldC, regBits_fieldA, regBits_fieldB, functField, opcodeField]
  refine BitVec.eq_of_getLsbD_eq fun i hi => ?_
  simp only [BitVec.getLsbD_append, BitVec.getLsbD_extractLsb', BitVec.getLsbD_and]
  interval_cases i <;> simp

/-- The R shape, and the L shape, of an instruction that ignores the funct. -/
theorem encodeR_fields_zero : encodeR o 0 (fieldC w) (fieldA w) (fieldB w) = w &&& 0x01ff8fff := by
  rw [encodeR, ← ho, regBits_fieldC, regBits_fieldA, regBits_fieldB, opcodeField]
  refine BitVec.eq_of_getLsbD_eq fun i hi => ?_
  simp only [BitVec.getLsbD_append, BitVec.getLsbD_extractLsb', BitVec.getLsbD_and]
  interval_cases i <;> simp

theorem encodeI_fields : encodeI o (functField w) (fieldC w) (fieldA w) (imm12Field w) = w := by
  rw [encodeI, ← ho, regBits_fieldC, regBits_fieldA, functField, imm12Field, opcodeField]
  refine BitVec.eq_of_getLsbD_eq fun i hi => ?_
  simp only [BitVec.getLsbD_append, BitVec.getLsbD_extractLsb']
  interval_cases i <;> simp

/-- The I shape, and the S/B shape, of an instruction that ignores the funct. -/
theorem encodeI_fields_zero : encodeI o 0 (fieldC w) (fieldA w) (imm12Field w) = w &&& 0xffff8fff := by
  rw [encodeI, ← ho, regBits_fieldC, regBits_fieldA, imm12Field, opcodeField]
  refine BitVec.eq_of_getLsbD_eq fun i hi => ?_
  simp only [BitVec.getLsbD_append, BitVec.getLsbD_extractLsb', BitVec.getLsbD_and]
  interval_cases i <;> simp

theorem encodeUJ_fields : encodeUJ o (fieldC w) (imm20Field w) = w := by
  rw [encodeUJ, ← ho, regBits_fieldC, imm20Field, opcodeField]
  refine BitVec.eq_of_getLsbD_eq fun i hi => ?_
  simp only [BitVec.getLsbD_append, BitVec.getLsbD_extractLsb']
  interval_cases i <;> simp
end Shapes

/-! ## The rows that carry their word whole, by its fields (R72, R73) -/

theorem Opcode.ofBits_eq_some_iff (b : BitVec 7) (o : Opcode) : Opcode.ofBits b = some o ↔ b = o.bits := by
  revert b; cases o <;> decide

theorem Opcode.ofBits_eq_none_iff (b : BitVec 7) : Opcode.ofBits b = none ↔ 11 ≤ b.toNat := by
  revert b; decide

theorem functField_cases (w : Word) :
    functField w = 0 ∨ functField w = 1 ∨ functField w = 2 ∨ functField w = 3 ∨
    functField w = 4 ∨ functField w = 5 ∨ functField w = 6 ∨ functField w = 7 :=
  (by decide : ∀ f : BitVec 3, f = 0 ∨ f = 1 ∨ f = 2 ∨ f = 3 ∨ f = 4 ∨ f = 5 ∨ f = 6 ∨ f = 7) _

/-- A word of a row with a funct has the opcode and the funct of the row's match. -/
theorem fields_of_fits {w m : Word} (h : Word.fits 0x0000707f m w = true) :
    opcodeField w = opcodeField m ∧ functField w = functField m := by
  rw [← beq_iff_eq.1 h, opcodeField, opcodeField, functField, functField, BitVec.extractLsb'_and, BitVec.extractLsb'_and]
  exact ⟨BitVec.and_allOnes.symm, BitVec.and_allOnes.symm⟩

/-- A mask on the opcode alone, whichever of its bits it fixes. -/
theorem fits_setWidth_iff (m v : BitVec 7) (w : Word) :
    Word.fits (m.setWidth 32) (v.setWidth 32) w = true ↔ opcodeField w &&& m = v := by
  have h : w &&& m.setWidth 32 = (opcodeField w &&& m).setWidth 32 := by
    refine BitVec.eq_of_getLsbD_eq fun i hi => ?_
    rcases lt_or_ge i 7 with h7 | h7
    · simp [opcodeField, hi, h7]
    · simp [opcodeField, BitVec.getLsbD_of_ge m i h7]
  rw [Word.fits, beq_iff_eq, h]
  refine ⟨fun e => ?_, fun e => e ▸ rfl⟩
  simpa using congrArg (BitVec.setWidth 7) e

section IllegalRows
variable {w : Word}

theorem illegalOp11_wellFormed_iff : (Instr.illegalOp11 w).WellFormed ↔ (opcodeField w).toNat = 11 :=
  (fits_opcode w 11).trans BitVec.toNat_inj.symm

theorem illegalOp12to15_wellFormed_iff :
    (Instr.illegalOp12to15 w).WellFormed ↔ 12 ≤ (opcodeField w).toNat ∧ (opcodeField w).toNat ≤ 15 :=
  (fits_setWidth_iff 0x7c 0x0c w).trans
    ((by decide : ∀ b : BitVec 7, b &&& 0x7c = 0x0c ↔ 12 ≤ b.toNat ∧ b.toNat ≤ 15) _)

theorem illegalOp16to31_wellFormed_iff :
    (Instr.illegalOp16to31 w).WellFormed ↔ 16 ≤ (opcodeField w).toNat ∧ (opcodeField w).toNat ≤ 31 :=
  (fits_setWidth_iff 0x70 0x10 w).trans
    ((by decide : ∀ b : BitVec 7, b &&& 0x70 = 0x10 ↔ 16 ≤ b.toNat ∧ b.toNat ≤ 31) _)

theorem illegalOp32to63_wellFormed_iff :
    (Instr.illegalOp32to63 w).WellFormed ↔ 32 ≤ (opcodeField w).toNat ∧ (opcodeField w).toNat ≤ 63 :=
  (fits_setWidth_iff 0x60 0x20 w).trans
    ((by decide : ∀ b : BitVec 7, b &&& 0x60 = 0x20 ↔ 32 ≤ b.toNat ∧ b.toNat ≤ 63) _)

theorem illegalOp64to127_wellFormed_iff : (Instr.illegalOp64to127 w).WellFormed ↔ 64 ≤ (opcodeField w).toNat :=
  (fits_setWidth_iff 0x40 0x40 w).trans
    ((by decide : ∀ b : BitVec 7, b &&& 0x40 = 0x40 ↔ 64 ≤ b.toNat) _)
end IllegalRows

/-! ## Decode, then encode -/

/-- What makes `i` a faithful reading of `w`: it is well formed, and its word is `w` but for the bits it ignores. -/
structure ReadingOf (w : Word) (i : Instr) : Prop where
  wellFormed : i.WellFormed
  encode_eq : encode i = w &&& Machine.keptBits i

section Handlers
variable {w : Word}

theorem decodeImm_readingOf (ho : opcodeField w = Opcode.imm.bits) : ReadingOf w (decodeImm w) := by
  unfold decodeImm
  rcases functField_cases w with hf | hf | hf | hf | hf | hf | hf | hf <;> simp only [hf]
  -- `addi` is funct 0 and `slti` is funct 2.
  case inl | inr.inr.inl => exact ⟨rfl, (hf ▸ encodeI_fields ho :).trans BitVec.and_allOnes.symm⟩
  all_goals exact ⟨(fits_opcode_funct w _ _).2 ⟨ho, hf⟩, BitVec.and_allOnes.symm⟩

theorem decodeOp_readingOf (ho : opcodeField w = Opcode.op.bits) : ReadingOf w (decodeOp w) := by
  unfold decodeOp
  rcases functField_cases w with hf | hf | hf | hf | hf | hf | hf | hf <;> simp only [hf]
  -- `add` is funct 0.
  case inl => exact ⟨rfl, (hf ▸ encodeR_fields ho :)⟩
  all_goals exact ⟨(fits_opcode_funct w _ _).2 ⟨ho, hf⟩, BitVec.and_allOnes.symm⟩

theorem decodeBranch_readingOf (ho : opcodeField w = Opcode.branch.bits) : ReadingOf w (decodeBranch w) := by
  unfold decodeBranch
  rcases functField_cases w with hf | hf | hf | hf | hf | hf | hf | hf <;> simp only [hf]
  -- `bne` is funct 1.
  case inr.inl => exact ⟨rfl, (hf ▸ encodeI_fields ho :).trans BitVec.and_allOnes.symm⟩
  all_goals exact ⟨(fits_opcode_funct w _ _).2 ⟨ho, hf⟩, BitVec.and_allOnes.symm⟩

theorem decodeIllegal_readingOf (ho : 11 ≤ (opcodeField w).toNat) : ReadingOf w (decodeIllegal w) := by
  simp only [decodeIllegal]
  split_ifs
  · exact ⟨illegalOp11_wellFormed_iff.2 (by omega), BitVec.and_allOnes.symm⟩
  · exact ⟨illegalOp12to15_wellFormed_iff.2 (by omega), BitVec.and_allOnes.symm⟩
  · exact ⟨illegalOp16to31_wellFormed_iff.2 (by omega), BitVec.and_allOnes.symm⟩
  · exact ⟨illegalOp32to63_wellFormed_iff.2 (by omega), BitVec.and_allOnes.symm⟩
  · exact ⟨illegalOp64to127_wellFormed_iff.2 (by omega), BitVec.and_allOnes.symm⟩
end Handlers

theorem decode_readingOf (w : Word) : ReadingOf w (decode w) := by
  unfold decode
  cases hb : Opcode.ofBits (opcodeField w) with
  | none => exact decodeIllegal_readingOf ((Opcode.ofBits_eq_none_iff _).1 hb)
  | some o =>
    have ho := (Opcode.ofBits_eq_some_iff _ o).1 hb
    cases o
    case hlt => exact ⟨rfl, ((and_opcodeMask w).trans (congrArg _ ho)).symm⟩
    case put | get | mlt => exact ⟨rfl, encodeR_fields_zero ho⟩
    case imm => exact decodeImm_readingOf ho
    case op => exact decodeOp_readingOf ho
    case branch => exact decodeBranch_readingOf ho
    case jal | lui => exact ⟨rfl, (encodeUJ_fields ho).trans BitVec.and_allOnes.symm⟩
    case load | store => exact ⟨rfl, encodeI_fields_zero ho⟩

theorem decode_wellFormed (w : Word) : (decode w).WellFormed := (decode_readingOf w).wellFormed

theorem encode_decode (w : Word) : encode (decode w) = w &&& Machine.keptBits (decode w) := (decode_readingOf w).encode_eq

/-! ## Encode, then decode -/

theorem decode_of_illegal {w : Word} (ho : 11 ≤ (opcodeField w).toNat) : decode w = decodeIllegal w := by
  rw [decode, (Opcode.ofBits_eq_none_iff _).2 ho]

theorem decode_encode {i : Instr} (h : i.WellFormed) : decode (encode i) = i := by
  cases i
  case hlt => rfl
  case put | get | addi | slti | add | mlt | bne | jal | lui | lw | sw =>
    simp [encode, encodeL_eq, encodeSB_eq, decode, Opcode.ofBits_bits, decodeImm, decodeOp, decodeBranch]
  case illegalOp11 | illegalOp12to15 | illegalOp16to31 | illegalOp32to63 | illegalOp64to127 =>
    simp only [illegalOp11_wellFormed_iff, illegalOp12to15_wellFormed_iff, illegalOp16to31_wellFormed_iff,
      illegalOp32to63_wellFormed_iff, illegalOp64to127_wellFormed_iff] at h
    rw [encode, decode_of_illegal (by omega)]
    simp (disch := omega) only [decodeIllegal, if_pos, if_neg]
  -- The unmapped rows: the opcode and the funct of the row's match lead the decoder to the row.
  all_goals
    obtain ⟨ho, hf⟩ := fields_of_fits h
    simp only [encode, decode, decodeImm, decodeOp, decodeBranch, ho, hf]
    rfl

/-- Settles O1: the fields of a shape read back as they were placed, and make the word again but for its ignored bits. -/
theorem decodeAndEncodeAgree : Obligations.DecodeAndEncodeAgree :=
  ⟨fun _ => decode_encode, encode_decode⟩

/-- Settles O2: each handler is reached with the opcode and the funct of the rows it gives. -/
theorem decodedInstructionsAreWellFormed : Obligations.DecodedInstructionsAreWellFormed := decode_wellFormed

/-- Settles O7: the decoder evaluated at the seventeen words. -/
theorem writtenOutWordsDecode : Obligations.WrittenOutWordsDecode := by
  unfold Obligations.WrittenOutWordsDecode
  decide

end Sys2Proof
end

section
/-! The decoder and the opcode table (30_encoding.md R71, R74): a word has the fixed bits of its decoding's row, and of no other. -/

namespace Sys2Proof
open Machine

/-! ## The table by itself -/

/-- No word has the fixed bits of two rows: their matches differ under the mask that both have. -/
theorem opcodeTable_disjoint : opcodeTable.Pairwise fun r r' => r.mtch &&& r'.mask ≠ r'.mtch &&& r.mask := by decide

theorem opcodeTable_mnemonics_nodup : (opcodeTable.map (·.mnemonic)).Nodup := by decide

section Rows
variable {r r' : OpcodeRow} (hr : r ∈ opcodeTable) (hr' : r' ∈ opcodeTable)
include hr hr'

theorem row_eq_of_fits {w : Word} (h : Word.fits r.mask r.mtch w = true) (h' : Word.fits r'.mask r'.mtch w = true) :
    r = r' := by
  have hsymm : Std.Symm fun r r' : OpcodeRow => r.mtch &&& r'.mask ≠ r'.mtch &&& r.mask := ⟨fun _ _ => Ne.symm⟩
  by_contra hne
  refine opcodeTable_disjoint.forall hr hr' hne ?_
  rw [← beq_iff_eq.1 h, ← beq_iff_eq.1 h']
  ac_rfl

theorem row_eq_of_mnemonic_eq (h : r.mnemonic = r'.mnemonic) : r = r' :=
  List.inj_on_of_nodup_map opcodeTable_mnemonics_nodup hr hr' h
end Rows

/-- The kept bits of R65 by the mnemonic alone. -/
def keptBitsOf (mnemonic : String) : Word :=
  if mnemonic = "hlt" then 0x0000007f
  else if mnemonic ∈ ["put", "get", "mlt"] then 0x01ff8fff
  else if mnemonic = "add" then 0x01ffffff
  else if mnemonic ∈ ["lw", "sw"] then 0xffff8fff
  else 0xffffffff

theorem keptBits_eq (i : Instr) : keptBits i = keptBitsOf i.mnemonic := by
  cases i <;> rfl

/-- An instruction ignores no fixed bit of its row. -/
theorem mask_and_keptBitsOf : ∀ row ∈ opcodeTable, row.mask &&& keptBitsOf row.mnemonic = row.mask := by decide

/-! ## The row of a word -/

open Laws.EncodeFitsRow in
theorem encode_fits_row : ∀ i, Statement i
  | .hlt => hlt
  | .put value base offset => put value base offset
  | .get value base offset => get value base offset
  | .addi rd rs1 imm => addi rd rs1 imm
  | .slti rd rs1 imm => slti rd rs1 imm
  | .add rd rs1 rs2 => add rd rs1 rs2
  | .mlt rd rs1 rs2 => mlt rd rs1 rs2
  | .bne rs1 rs2 imm => bne rs1 rs2 imm
  | .jal rd imm => jal rd imm
  | .lui rd imm => lui rd imm
  | .lw rd rs1 imm => lw rd rs1 imm
  | .sw rs1 rs2 imm => sw rs1 rs2 imm
  | .unmappedImmF1 w => unmappedImmF1 w
  | .unmappedImmF3 w => unmappedImmF3 w
  | .unmappedImmF4 w => unmappedImmF4 w
  | .unmappedImmF5 w => unmappedImmF5 w
  | .unmappedImmF6 w => unmappedImmF6 w
  | .unmappedImmF7 w => unmappedImmF7 w
  | .unmappedOpF1 w => unmappedOpF1 w
  | .unmappedOpF2 w => unmappedOpF2 w
  | .unmappedOpF3 w => unmappedOpF3 w
  | .unmappedOpF4 w => unmappedOpF4 w
  | .unmappedOpF5 w => unmappedOpF5 w
  | .unmappedOpF6 w => unmappedOpF6 w
  | .unmappedOpF7 w => unmappedOpF7 w
  | .unmappedBranchF0 w => unmappedBranchF0 w
  | .unmappedBranchF2 w => unmappedBranchF2 w
  | .unmappedBranchF3 w => unmappedBranchF3 w
  | .unmappedBranchF4 w => unmappedBranchF4 w
  | .unmappedBranchF5 w => unmappedBranchF5 w
  | .unmappedBranchF6 w => unmappedBranchF6 w
  | .unmappedBranchF7 w => unmappedBranchF7 w
  | .illegalOp11 w => illegalOp11 w
  | .illegalOp12to15 w => illegalOp12to15 w
  | .illegalOp16to31 w => illegalOp16to31 w
  | .illegalOp32to63 w => illegalOp32to63 w
  | .illegalOp64to127 w => illegalOp64to127 w

/-- A row cannot tell two words that agree on the bits its instruction keeps. -/
theorem fits_eq_of_and_keptBits {row : OpcodeRow} (hrow : row ∈ opcodeTable) {i : Instr} (hm : row.mnemonic = i.mnemonic)
    {w v : Word} (h : w &&& keptBits i = v &&& keptBits i) :
    Word.fits row.mask row.mtch w = Word.fits row.mask row.mtch v := by
  have hmask (u : Word) : u &&& row.mask = u &&& keptBits i &&& row.mask := by
    rw [keptBits_eq, ← hm, BitVec.and_assoc, BitVec.and_comm (keptBitsOf _), mask_and_keptBitsOf row hrow]
  rw [Word.fits, Word.fits, hmask w, h, ← hmask v]

/-- The word of the decoding has the row's fixed bits, and differs from `w` in ignored bits only. -/
theorem exists_row_of_decode (w : Word) :
    ∃ row ∈ opcodeTable, row.mnemonic = (decode w).mnemonic ∧ Word.fits row.mask row.mtch w = true := by
  obtain ⟨row, hrow, hm, hf⟩ := encode_fits_row _ (decode_wellFormed w)
  have hkept : w &&& keptBits (decode w) = encode (decode w) &&& keptBits (decode w) := by
    rw [encode_decode, BitVec.and_assoc, BitVec.and_self]
  exact ⟨row, hrow, hm, (fits_eq_of_and_keptBits hrow hm hkept).trans hf⟩

theorem fits_row_iff_mnemonic (w : Word) {row : OpcodeRow} (hrow : row ∈ opcodeTable) :
    Word.fits row.mask row.mtch w = true ↔ (decode w).mnemonic = row.mnemonic := by
  obtain ⟨row', hrow', hm, hf⟩ := exists_row_of_decode w
  refine ⟨fun h => ?_, fun h => ?_⟩
  · rw [row_eq_of_fits hrow hrow' h hf, hm]
  · rwa [row_eq_of_mnemonic_eq hrow hrow' (h.symm.trans hm.symm)]

/-- Settles O3: a word fits the row of its decoding, the rows are disjoint, and so are their mnemonics. -/
theorem decoderAgreesWithTheOpcodeTable : Obligations.DecoderAgreesWithTheOpcodeTable :=
  fun w _ hrow => fits_row_iff_mnemonic w hrow

/-- Settles O4: the row of the decoding is the one, and no other row shares a word with it. -/
theorem everyWordIsOfExactlyOneRow : Obligations.EveryWordIsOfExactlyOneRow := by
  intro w
  obtain ⟨row, hrow, -, hf⟩ := exists_row_of_decode w
  exact ⟨row, hrow, hf, fun _ hrow' hf' => row_eq_of_fits hrow' hrow hf' hf⟩

theorem mnemonic_decode_eq_of_and_keptBits {w v : Word} (h : w &&& keptBits (decode w) = v &&& keptBits (decode w)) :
    (decode v).mnemonic = (decode w).mnemonic := by
  obtain ⟨row, hrow, hm, hf⟩ := exists_row_of_decode w
  rw [fits_eq_of_and_keptBits hrow hm h, fits_row_iff_mnemonic v hrow] at hf
  exact hf.trans hm

/-- Settles O5: the two words are of one row, so they keep the same bits and have the same canonical word. -/
theorem ignoredBitsDoNotMatter : Obligations.IgnoredBitsDoNotMatter := by
  intro w v h
  have hkept : keptBits (decode v) = keptBits (decode w) := by
    rw [keptBits_eq, keptBits_eq, mnemonic_decode_eq_of_and_keptBits h]
  calc decode v
    _ = decode (encode (decode v)) := (decode_encode (decode_wellFormed v)).symm
    _ = decode (encode (decode w)) := by rw [encode_decode, encode_decode, hkept, h]
    _ = decode w := decode_encode (decode_wellFormed w)

end Sys2Proof
end

section
/-! The words of an illegal opcode, what the checked encoder refuses, and zeroed memory (30_encoding.md R66, R70, R72). -/

namespace Sys2Proof.Machine

theorem decodeIllegal_mem_illegalForms (w : Word) : decodeIllegal w ∈ illegalForms w := by
  simp only [decodeIllegal]
  split_ifs <;> simp [illegalForms]

theorem opcode_of_mem_illegalForms {i : Instr} {w : Word} (h : i ∈ illegalForms w) (hi : i.WellFormed) :
    11 ≤ (opcodeField w).toNat := by
  simp only [illegalForms, List.mem_cons, List.not_mem_nil, or_false] at h
  rcases h with rfl | rfl | rfl | rfl | rfl
  · exact (illegalOp11_wellFormed_iff.1 hi).ge
  · exact le_trans (by decide) (illegalOp12to15_wellFormed_iff.1 hi).1
  · exact le_trans (by decide) (illegalOp16to31_wellFormed_iff.1 hi).1
  · exact le_trans (by decide) (illegalOp32to63_wellFormed_iff.1 hi).1
  · exact le_trans (by decide) (illegalOp64to127_wellFormed_iff.1 hi)

theorem decode_mem_illegalForms_iff (w : Word) : decode w ∈ illegalForms w ↔ 11 ≤ (opcodeField w).toNat :=
  ⟨fun h => opcode_of_mem_illegalForms h (decode_wellFormed w),
   fun h => decode_of_illegal h ▸ decodeIllegal_mem_illegalForms w⟩

/-- Settles O21: exactly an unbound opcode reaches the handler of the illegal rows, and each of them raises IllegalOpcode. -/
theorem illegalOpcodesFault : Obligations.IllegalOpcodesFault := by
  refine ⟨fun w => (decode_mem_illegalForms_iff w).symm, fun w s i hi => ?_⟩
  obtain ⟨-, -, he⟩ := of_mem_illegalForms hi s
  exact ⟨_, he, s.raise_faultTaken _⟩

theorem encode_of_mem_illegalForms {i : Instr} {w : Word} (h : i ∈ illegalForms w) : encode i = w :=
  (of_mem_illegalForms h .reset).1

/-- A well-formed term of an illegal row is one whose word has no bound opcode. -/
theorem opcode_encode_iff_illegal {i : Instr} (hi : i.WellFormed) :
    10 < (opcodeField (encode i)).toNat ↔ ∃ w, i ∈ illegalForms w := by
  constructor
  · intro h
    have hmem := (decode_mem_illegalForms_iff (encode i)).2 h
    rw [decode_encode hi] at hmem
    exact ⟨_, hmem⟩
  · rintro ⟨w, h⟩
    rw [encode_of_mem_illegalForms h]
    exact opcode_of_mem_illegalForms h hi

/-- Settles O56: the opcode of a well-formed term's word is unbound exactly for the illegal rows, and what is given decodes back. -/
theorem theEncoderRefusesExactlyWhatHasNoWord : Obligations.TheEncoderRefusesExactlyWhatHasNoWord := by
  refine fun i => ⟨?_, fun w h => ?_⟩
  · rw [encodeChecked_eq_none]
    exact or_congr_right' fun hi => opcode_encode_iff_illegal (not_not.1 hi)
  · obtain ⟨hi, ho, rfl⟩ := (encodeChecked_eq_some i w).1 h
    exact ⟨ho, decode_encode hi⟩

theorem decode_zero : decode 0 = .hlt := (decode_eq_hlt_iff 0).2 rfl

/-- Settles O22: the zero word has the opcode of `hlt`, whose meaning is the halted state. -/
theorem zeroedMemoryHalts : Obligations.ZeroedMemoryHalts := by
  refine ⟨decode_zero, decode_eq_hlt_iff, fun s hs h0 => ?_⟩
  rw [step_of_canFetch hs, h0, decode_zero]
  rfl

end Sys2Proof.Machine
end

section
/-! The assembler's map (30_encoding.md R66 to R68, R80 to R86): its operands, its one pseudo-instruction, and the instructions its
lines give. -/

namespace Sys2Proof.Machine

/-! ## Operands -/

theorem regOfIndex_eq_some {n : Nat} {r : RegIdx} (h : regOfIndex n = some r) : r.val = n := by
  obtain ⟨hn, hr⟩ := Option.dite_none_right_eq_some.1 h
  cases hr
  rfl

theorem imm12OfInt_eq_some {v : Int} {b : BitVec 12} (h : imm12OfInt v = some b) : b.toInt = v := by
  obtain ⟨hv, hb⟩ := Option.ite_none_right_eq_some.1 h
  cases hb
  exact BitVec.toInt_ofInt_eq_self (by decide) (by omega) (by omega)

theorem imm20OfInt_eq_some {v : Int} {b : BitVec 20} (h : imm20OfInt v = some b) : b.toInt = v := by
  obtain ⟨hv, hb⟩ := Option.ite_none_right_eq_some.1 h
  cases hb
  exact BitVec.toInt_ofInt_eq_self (by decide) (by omega) (by omega)

/-- Settles O53: the range checks are those of the three fields, and a number in range is the value of its low bits. -/
theorem operandsAreAcceptedExactlyInRange : Obligations.OperandsAreAcceptedExactlyInRange := by
  refine ⟨fun n => ⟨?_, fun _ => regOfIndex_eq_some⟩, fun v => ⟨?_, fun _ => imm12OfInt_eq_some⟩,
    fun v => ⟨?_, fun _ => imm20OfInt_eq_some⟩⟩
  · simp [regOfIndex]
  · simp only [imm12OfInt, ite_eq_right_iff, reduceCtorEq, imp_false]
    omega
  · simp only [imm20OfInt, ite_eq_right_iff, reduceCtorEq, imp_false]
    omega

/-! ## `set` and the unknown mnemonics (R84) -/

theorem asmReg_x0 : asmReg ['x', '0'] = .ok 0 := rfl

theorem asmInstr_set (d v : List Char) :
    asmInstr ['s', 'e', 't'] [d, v] = asmInstr ['a', 'd', 'd', 'i'] [d, ['x', '0'], v] := by
  simp only [asmInstr, asmRegImm12, asmRegsImm, asmReg_x0]
  rfl

theorem asmInstr_unknown {m : List Char} (h : m ∉ asmMnemonics) (operands : List (List Char)) :
    asmInstr m operands = .error (.unknownMnemonic m) := by
  simp only [asmMnemonics, List.mem_cons, List.not_mem_nil, or_false, not_or] at h
  simp [asmInstr, h]

/-- Settles O55: `set` reads its two operands as `addi` does with x0 between them, and the mnemonics are the tests of asmInstr. -/
theorem setIsTheOnlyPseudoInstruction : Obligations.SetIsTheOnlyPseudoInstruction :=
  ⟨asmInstr_set, fun _ h => asmInstr_unknown h⟩

/-! ## The instructions of a line (R83) -/

/-- One of the twelve instructions of R96. -/
structure Mapped (i : Instr) : Prop where
  wellFormed : i.WellFormed
  not_unmapped : ∀ w, i ∉ unmappedForms w
  not_illegal : ∀ w, i ∉ illegalForms w

/-- Every value that a computation can give has the property. -/
def OnlyGives {ε α : Type} (P : α → Prop) (x : Except ε α) : Prop := ∀ a, x = .ok a → P a

section OnlyGives
variable {ε α β : Type} {P : β → Prop}

theorem OnlyGives.error (e : ε) : OnlyGives P (.error e) := nofun

theorem OnlyGives.ok {b : β} (h : P b) : OnlyGives P (.ok b : Except ε β) := fun | _, rfl => h

theorem OnlyGives.ite {c : Prop} [Decidable c] {x y : Except ε β} (hx : OnlyGives P x) (hy : OnlyGives P y) :
    OnlyGives P (if c then x else y) := by
  split
  · exact hx
  · exact hy

theorem OnlyGives.bind {x : Except ε α} {f : α → Except ε β} (h : ∀ a, OnlyGives P (f a)) : OnlyGives P (x >>= f) := by
  cases x with
  | error e => exact .error e
  | ok a => exact h a

theorem OnlyGives.map {x : Except ε α} {f : α → β} (h : OnlyGives (fun a => P (f a)) x) : OnlyGives P (x.map f) := by
  cases x with
  | error e => exact .error e
  | ok a => exact .ok (h a rfl)
end OnlyGives

section OperandLists
variable {P : Instr → Prop} (operands : List (List Char))

theorem asmNone_onlyGives {i : Instr} (h : P i) : OnlyGives P (asmNone i operands) := by
  unfold asmNone
  split
  · exact .ok h
  · exact .error _

theorem asmRegs_onlyGives {f : RegIdx → RegIdx → RegIdx → Instr} (h : ∀ p q r, P (f p q r)) :
    OnlyGives P (asmRegs f operands) := by
  unfold asmRegs
  split
  · exact .bind fun p => .bind fun q => .bind fun r => .ok (h p q r)
  · exact .error _

theorem asmRegsImm_onlyGives {f : RegIdx → RegIdx → BitVec 12 → Instr} (h : ∀ p q v, P (f p q v)) :
    OnlyGives P (asmRegsImm f operands) := by
  unfold asmRegsImm
  split
  · exact .bind fun p => .bind fun q => .bind fun v => .ok (h p q v)
  · exact .error _

theorem asmRegImmReg_onlyGives {f : RegIdx → BitVec 12 → RegIdx → Instr} (h : ∀ p v q, P (f p v q)) :
    OnlyGives P (asmRegImmReg f operands) := by
  unfold asmRegImmReg
  split
  · exact .bind fun p => .bind fun v => .bind fun q => .ok (h p v q)
  · exact .error _

theorem asmRegImm12_onlyGives {f : RegIdx → BitVec 12 → Instr} (h : ∀ p v, P (f p v)) :
    OnlyGives P (asmRegImm12 f operands) := by
  unfold asmRegImm12
  split
  · exact .bind fun p => .bind fun v => .ok (h p v)
  · exact .error _

theorem asmRegImm20_onlyGives {f : RegIdx → BitVec 20 → Instr} (h : ∀ p v, P (f p v)) :
    OnlyGives P (asmRegImm20 f operands) := by
  unfold asmRegImm20
  split
  · exact .bind fun p => .bind fun v => .ok (h p v)
  · exact .error _
end OperandLists

/-- Every mnemonic leads to an operand list of its form, or to the error. -/
theorem asmInstr_onlyGives_mapped (m : List Char) (operands : List (List Char)) :
    OnlyGives Mapped (asmInstr m operands) := by
  unfold asmInstr
  refine
    .ite (asmNone_onlyGives _ ?hlt) <|
    .ite (asmRegs_onlyGives _ fun _ _ _ => ?put) <|
    .ite (asmRegs_onlyGives _ fun _ _ _ => ?get) <|
    .ite (asmRegsImm_onlyGives _ fun _ _ _ => ?addi) <|
    .ite (asmRegsImm_onlyGives _ fun _ _ _ => ?slti) <|
    .ite (asmRegs_onlyGives _ fun _ _ _ => ?add) <|
    .ite (asmRegs_onlyGives _ fun _ _ _ => ?mlt) <|
    .ite (asmRegsImm_onlyGives _ fun _ _ _ => ?bne) <|
    .ite (asmRegImm20_onlyGives _ fun _ _ => ?jal) <|
    .ite (asmRegImm20_onlyGives _ fun _ _ => ?lui) <|
    .ite (asmRegsImm_onlyGives _ fun _ _ _ => ?lw) <|
    .ite (asmRegImmReg_onlyGives _ fun _ _ _ => ?sw) <|
    .ite (asmRegImm12_onlyGives _ fun _ _ => ?set) (.error _)
  all_goals exact ⟨rfl, by simp [unmappedForms], by simp [illegalForms]⟩

/-! ## Lines and sources (R80, R86) -/

/-- The canonical word of one of the twelve instructions, with that instruction as its decoding. -/
def MappedWord (w : Word) : Prop := w = encode (decode w) ∧ decode w ∉ unmappedForms w ∧ decode w ∉ illegalForms w

theorem Mapped.encode_mappedWord {i : Instr} (h : Mapped i) : MappedWord (encode i) := by
  rw [MappedWord, decode_encode h.wellFormed]
  exact ⟨rfl, h.not_unmapped _, h.not_illegal _⟩

theorem assembleLine_onlyGives (line : List Char) : OnlyGives (fun o => ∀ w ∈ o, MappedWord w) (assembleLine line) := by
  unfold assembleLine
  split
  · exact .ok nofun
  · exact .ok nofun
  · refine .map fun i hi w hw => ?_
    cases hw
    exact (asmInstr_onlyGives_mapped _ _ i hi).encode_mappedWord

theorem assembleFrom_onlyGives (n : Nat) (lines : List (List Char)) :
    OnlyGives (fun ws => ∀ w ∈ ws, MappedWord w) (assembleFrom n lines) := by
  induction lines generalizing n with
  | nil => exact .ok nofun
  | cons line rest ih =>
    unfold assembleFrom
    split
    · exact .error _
    · exact ih _
    · next w hline =>
      split
      · exact .error _
      · next ws hrest =>
        exact .ok (List.forall_mem_cons.2 ⟨assembleLine_onlyGives line _ hline w rfl, ih _ ws hrest⟩)

/-- Settles O54: the words of a source are those of its lines, and a line gives the word of one of the twelve instructions. -/
theorem assembledWordsDecodeToMappedInstructions : Obligations.AssembledWordsDecodeToMappedInstructions :=
  fun src ws h => assembleFrom_onlyGives 1 (sourceLines src) ws h

end Sys2Proof.Machine
end

section
/-! Every step answers a next state; a stopped machine stays as it is (40_step_and_units.md R91, R92), so a run is that many steps
(R94, R95). -/

namespace Sys2Proof.Machine

/-! ## The step -/

theorem exec_answers (i : Instr) (s : State) : ∃ t, exec i s = .next t := by
  by_cases hi : i = .hlt
  · exact ⟨s.halt, by rw [hi]; rfl⟩
  · exact ⟨_, exec_eq hi s⟩

theorem step_of_stopped {s : State} (h : s.runState ≠ .running) : step s = .next s := by
  unfold step
  cases hr : s.runState with
  | running => exact absurd hr h
  | halted => rfl
  | faulted => rfl

theorem step_answers (s : State) : ∃ t, step s = .next t := by
  by_cases hr : s.runState = .running
  · rcases fetch_cases s with ⟨ha, -⟩ | ⟨-, f, hf⟩
    · rw [step_of_canFetch ⟨hr, ha⟩]
      exact exec_answers _ s
    · exact ⟨_, step_of_fetch_error hr hf⟩
  · exact ⟨s, step_of_stopped hr⟩

/-- Settles O26: a stopped machine answers itself, a failing fetch its fault, and every instruction one of its ends. -/
theorem everyStepAnswersANextState : Obligations.EveryStepAnswersANextState := step_answers

/-- Settles O23: where the check of the fetch passes, the step is the instruction. -/
theorem stepRunsTheDecodedInstruction : Obligations.StepRunsTheDecodedInstruction :=
  fun _ => step_of_canFetch

/-- What a step that ends in this state reports (R91, R105). -/
def State.report (t : State) : Report := if t.runState = .running then .progress else .noProgress

theorem stepReport_of_step {s t : State} (h : step s = .next t) : stepReport s = t.report := by
  simp [stepReport, h, State.report]

theorem State.report_of_running {t : State} (h : t.runState = .running) : t.report = .progress := if_pos h

theorem State.report_of_stopped {t : State} (h : t.runState ≠ .running) : t.report = .noProgress := if_neg h

/-- Settles O25: the step of a stopped machine ends in the machine itself, which is not RUNNING. -/
theorem stoppedMachineDoesNotChange : Obligations.StoppedMachineDoesNotChange := by
  intro s h
  have hs : s.runState ≠ .running := by rcases h with h | h <;> simp [h]
  have hstep := step_of_stopped hs
  exact ⟨hstep, (stepReport_of_step hstep).trans (State.report_of_stopped hs)⟩

/-! ## The run -/

theorem run_succ {s t : State} (h : step s = .next t) (n : Nat) :
    run (n + 1) s = if t.runState = .running then run n t else t := by
  simp [run, h]

theorem run_of_stopped {s : State} (h : s.runState ≠ .running) (n : Nat) : run n s = s := by
  cases n with
  | zero => rfl
  | succ n => rw [run_succ (step_of_stopped h), if_neg h]

/-- The run's test for RUNNING can be left out: a stopped machine runs to itself. -/
theorem run_succ_of_step {s t : State} (h : step s = .next t) (n : Nat) : run (n + 1) s = run n t := by
  rw [run_succ h]
  split
  · rfl
  · next hr => exact (run_of_stopped hr n).symm

theorem core_run_succ {s t : State} (h : step s = .next t) (n : Nat) :
    Host.Core.run core (n + 1) s = Host.Core.run core n t := by
  have hcore : core.step s = .next t := h
  simp [Host.Core.run, hcore]

/-- Settles O49, by induction on the budget: both runs go on from the state after the first step. -/
theorem runIsThatManySteps : Obligations.RunIsThatManySteps := by
  intro n
  induction n with
  | zero => exact fun _ => rfl
  | succ n ih =>
    intro s
    obtain ⟨t, h⟩ := step_answers s
    rw [core_run_succ h, run_succ_of_step h, ih t]

/-- Settles O50: no progress is a stopped machine after the step, and that machine runs to itself. -/
theorem runStopsAtNoProgressOrItsBudget : Obligations.RunStopsAtNoProgressOrItsBudget := by
  refine fun n s => ⟨rfl, fun hrep => ?_, fun t _ h => run_succ_of_step h n⟩
  obtain ⟨t, h⟩ := step_answers s
  have hstop : t.runState ≠ .running := fun hr => by
    rw [stepReport_of_step h, State.report_of_running hr] at hrep
    cases hrep
  rw [run_succ_of_step h, run_of_stopped hstop, h]

/-- Settles O51, by induction on the first budget. -/
theorem budgetsAdd : Obligations.BudgetsAdd := by
  intro m n s
  induction m generalizing s with
  | zero => rw [Nat.zero_add, run]
  | succ m ih =>
    obtain ⟨t, h⟩ := step_answers s
    rw [Nat.add_right_comm, run_succ_of_step h, run_succ_of_step h, ih]

end Sys2Proof.Machine
end

section
/-! Where a jump or a taken branch goes: its target, then the advance (40_step_and_units.md R107). -/

namespace Sys2Proof.Machine

/-! ## The three deltas of R107 -/

section Deltas
variable {n : Nat} {imm : BitVec n} (p : Word)

theorem signExtend_of_toInt {k : Int} (h : imm.toInt = k) : imm.signExtend 32 = BitVec.ofInt 32 k := by
  rw [BitVec.signExtend, h]

theorem jump_to_next (h : imm.toInt = 0) : p + imm.signExtend 32 + 4 = p + 4 := by
  rw [signExtend_of_toInt h]
  exact congrArg (· + 4) (BitVec.add_zero p)

theorem jump_to_previous (h : imm.toInt = -8) : p + imm.signExtend 32 + 4 = p - 4 := by
  rw [signExtend_of_toInt h, BitVec.add_assoc, BitVec.sub_eq_add_neg]
  rfl

theorem jump_to_itself (h : imm.toInt = -4) : p + imm.signExtend 32 + 4 = p := by
  rw [signExtend_of_toInt h, BitVec.add_assoc]
  exact BitVec.add_zero p
end Deltas

/-! ## `jal` and a taken `bne` -/

theorem exec_jal (rd : RegIdx) (imm : BitVec 20) (s : State) :
    exec (.jal rd imm) s = .next ((s.writeReg rd (s.pc + s.params.linkInc)).setPc (s.pc + imm.signExtend 32 + 4)) := rfl

theorem exec_bne_taken {rs1 rs2 : RegIdx} {s : State} (h : s.x rs1 ≠ s.x rs2) (imm : BitVec 12) :
    exec (.bne rs1 rs2 imm) s = .next (s.setPc (s.pc + imm.signExtend 32 + 4)) := by
  rw [exec_bne, pcBeforeAdvance, if_pos h]
  rfl

theorem State.setPc_of_pc {s : State} {p : Word} (h : s.pc = p) : s.setPc p = s := h ▸ s.setPc_self

theorem exec_jal_to_itself {imm : BitVec 20} (h : imm.toInt = -4) (rd : RegIdx) (s : State) :
    exec (.jal rd imm) s = .next (s.writeReg rd (s.pc + s.params.linkInc)) := by
  rw [exec_jal, jump_to_itself s.pc h, State.setPc_of_pc (State.writeReg_pc ..)]

theorem exec_bne_to_itself {imm : BitVec 12} (h : imm.toInt = -4) {rs1 rs2 : RegIdx} {s : State}
    (hx : s.x rs1 ≠ s.x rs2) : exec (.bne rs1 rs2 imm) s = .next s := by
  rw [exec_bne_taken hx, jump_to_itself s.pc h, State.setPc_self]

/-! ## The endless loop -/

/-- The next step jumps, or takes a branch, to the instruction it is at. -/
def JumpsToItself (s : State) : Prop :=
  s.CanFetch ∧
    ((∃ rd imm, imm.toInt = -4 ∧ decode s.fetchedWord = .jal rd imm) ∨
      (∃ rs1 rs2 imm, imm.toInt = -4 ∧ decode s.fetchedWord = .bne rs1 rs2 imm ∧ s.x rs1 ≠ s.x rs2))

/-- `jal` writes its link, which it does not read; `bne` leaves the whole machine as it was. -/
theorem JumpsToItself.exists_step {s : State} (h : JumpsToItself s) :
    ∃ t, step s = .next t ∧ JumpsToItself t ∧ t.pc = s.pc ∧ t.mem = s.mem := by
  obtain ⟨hs, hloop⟩ := h
  rw [step_of_canFetch hs]
  rcases hloop with ⟨rd, imm, hi, hd⟩ | ⟨rs1, rs2, imm, hi, hd, hx⟩
  · refine ⟨_, hd ▸ exec_jal_to_itself hi rd s, ⟨?_, .inl ⟨rd, imm, hi, ?_⟩⟩, ?_, ?_⟩
    · simpa [State.CanFetch, State.Accessible] using hs
    · simpa [State.fetchedWord] using hd
    · exact State.writeReg_pc ..
    · exact State.writeReg_mem ..
  · exact ⟨s, hd ▸ exec_bne_to_itself hi hx, ⟨hs, .inr ⟨rs1, rs2, imm, hi, hd, hx⟩⟩, rfl, rfl⟩

theorem JumpsToItself.run_stays {s : State} (h : JumpsToItself s) (n : Nat) :
    JumpsToItself (run n s) ∧ (run n s).pc = s.pc ∧ (run n s).mem = s.mem := by
  induction n generalizing s with
  | zero => exact ⟨h, rfl, rfl⟩
  | succ n ih =>
    obtain ⟨t, hstep, ht, hpc, hmem⟩ := h.exists_step
    obtain ⟨hr, hpc', hmem'⟩ := ih ht
    rw [run_succ_of_step hstep]
    exact ⟨hr, hpc'.trans hpc, hmem'.trans hmem⟩

/-- Settles O29: of the ends of an instruction only a completed one is RUNNING; its pc is the target plus 4, for the two jumps the
target being the pc plus the immediate. -/
theorem theAdvanceFollowsEveryHandler : Obligations.TheAdvanceFollowsEveryHandler := by
  refine ⟨fun i s t _ h ht => ?_,
    fun rd imm s => ⟨_, exec_jal rd imm s, jump_to_next s.pc, jump_to_previous s.pc⟩,
    fun rs1 rs2 imm s hx => ⟨_, exec_bne_taken hx imm, jump_to_next s.pc, jump_to_previous s.pc⟩,
    fun s n hs hloop => ?_⟩
  · rcases exec_cases h with ⟨-, rfl⟩ | ⟨-, f, -, rfl⟩ | ⟨-, -, rfl⟩
    · cases ht
    · cases ht
    · exact State.completed_pc s i
  · obtain ⟨⟨⟨hr, -⟩, -⟩, hpc, hmem⟩ := JumpsToItself.run_stays ⟨hs, hloop⟩ n
    exact ⟨hr, hpc, hmem⟩

end Sys2Proof.Machine
end

section
/-! The kind the instruction_decoder gives a word (40_step_and_units.md R100), and the instruction the word decodes to (R71): the
kind names the handler, and the fields of the word are its operands. -/

namespace Sys2Proof.Machine

/-- What a word decodes to, by its kind. -/
inductive DecodesAs (w : Word) : Kind → Instr → Prop where
  | hlt : DecodesAs w .hlt .hlt
  | put : DecodesAs w .put (.put (fieldC w) (fieldA w) (fieldB w))
  | get : DecodesAs w .get (.get (fieldC w) (fieldA w) (fieldB w))
  | addi : DecodesAs w .addi (.addi (fieldC w) (fieldA w) (imm12Field w))
  | slti : DecodesAs w .slti (.slti (fieldC w) (fieldA w) (imm12Field w))
  | add : DecodesAs w .add (.add (fieldC w) (fieldA w) (fieldB w))
  | mlt : DecodesAs w .mlt (.mlt (fieldC w) (fieldA w) (fieldB w))
  | bne : DecodesAs w .bne (.bne (fieldA w) (fieldC w) (imm12Field w))
  | jal : DecodesAs w .jal (.jal (fieldC w) (imm20Field w))
  | lui : DecodesAs w .lui (.lui (fieldC w) (imm20Field w))
  | lw : DecodesAs w .lw (.lw (fieldC w) (fieldA w) (imm12Field w))
  | sw : DecodesAs w .sw (.sw (fieldA w) (fieldC w) (imm12Field w))
  | unmapped {i : Instr} (h : i ∈ unmappedForms w) : DecodesAs w .unmapped i
  | illegal {i : Instr} (h : i ∈ illegalForms w) : DecodesAs w .illegal i

section Handlers
variable (w : Word)

theorem decodeImm_decodesAs :
    DecodesAs w (if functField w = 0 then .addi else if functField w = 2 then .slti else .unmapped) (decodeImm w) := by
  unfold decodeImm
  rcases functField_cases w with hf | hf | hf | hf | hf | hf | hf | hf <;> rw [hf]
  case inl => exact .addi
  case inr.inr.inl => exact .slti
  all_goals exact .unmapped (by simp [unmappedForms])

theorem decodeOp_decodesAs : DecodesAs w (if functField w = 0 then .add else .unmapped) (decodeOp w) := by
  unfold decodeOp
  rcases functField_cases w with hf | hf | hf | hf | hf | hf | hf | hf <;> rw [hf]
  case inl => exact .add
  all_goals exact .unmapped (by simp [unmappedForms])

theorem decodeBranch_decodesAs : DecodesAs w (if functField w = 1 then .bne else .unmapped) (decodeBranch w) := by
  unfold decodeBranch
  rcases functField_cases w with hf | hf | hf | hf | hf | hf | hf | hf <;> rw [hf]
  case inr.inl => exact .bne
  all_goals exact .unmapped (by simp [unmappedForms])
end Handlers

theorem kindOf_of_illegal {w : Word} (h : 11 ≤ (opcodeField w).toNat) : kindOf w = .illegal := by
  unfold kindOf
  split
  case h_12 => rfl
  all_goals omega

theorem decode_decodesAs (w : Word) : DecodesAs w (kindOf w) (decode w) := by
  cases hb : Opcode.ofBits (opcodeField w) with
  | none =>
    have ho := (Opcode.ofBits_eq_none_iff _).1 hb
    rw [kindOf_of_illegal ho]
    exact .illegal ((decode_mem_illegalForms_iff w).2 ho)
  | some o =>
    have ho := (Opcode.ofBits_eq_some_iff _ o).1 hb
    unfold decode kindOf
    rw [hb, ho]
    cases o
    case hlt => exact .hlt
    case put => exact .put
    case get => exact .get
    case imm => exact decodeImm_decodesAs w
    case op => exact decodeOp_decodesAs w
    case mlt => exact .mlt
    case branch => exact decodeBranch_decodesAs w
    case jal => exact .jal
    case lui => exact .lui
    case load => exact .lw
    case store => exact .sw

/-! ## The unmapped rows (R97) -/

theorem DecodesAs.mem_unmappedForms_iff {w : Word} {k : Kind} {i : Instr} (h : DecodesAs w k i) :
    i ∈ unmappedForms w ↔ k = .unmapped := by
  cases h with
  | unmapped h => exact iff_of_true h rfl
  | illegal h => exact iff_of_false (fun hu => (of_mem_unmappedForms hu .reset).2.1 h) nofun
  | _ => simp [unmappedForms]

theorem DecodesAs.mem_illegalForms_iff {w : Word} {k : Kind} {i : Instr} (h : DecodesAs w k i) :
    i ∈ illegalForms w ↔ k = .illegal := by
  cases h with
  | unmapped h => exact iff_of_false (of_mem_unmappedForms h .reset).2.1 nofun
  | illegal h => exact iff_of_true h rfl
  | _ => simp [illegalForms]

theorem kindOf_eq_unmapped_iff (w : Word) :
    kindOf w = .unmapped ↔
      (opcodeField w = 3 ∧ functField w ≠ 0 ∧ functField w ≠ 2) ∨ (opcodeField w = 4 ∧ functField w ≠ 0) ∨
        (opcodeField w = 6 ∧ functField w ≠ 1) := by
  simp only [← BitVec.toNat_inj (x := opcodeField w), kindOf]
  split
  case h_4 => split_ifs <;> simp_all
  case h_12 => simp_all
  all_goals simp [*]

/-- Settles O20: a word is of an unmapped row exactly when its kind is, and the rows share one end, which the policy decides. -/
theorem unmappedFunctIsANoOpOrFaultsByPolicy : Obligations.UnmappedFunctIsANoOpOrFaultsByPolicy := by
  refine ⟨fun w => ?_, fun w s i hi => ?_⟩
  · exact (kindOf_eq_unmapped_iff w).symm.trans (decode_decodesAs w).mem_unmappedForms_iff.symm
  · obtain ⟨-, -, -, -, he⟩ := of_mem_unmappedForms hi s
    rw [he]
    exact
      ⟨fun hp => ⟨s.advance, by simp [unmappedFunct, hp], rfl, ⟨s.advance_x, rfl, rfl, rfl, rfl⟩⟩,
       fun hp => ⟨_, by simp [unmappedFunct, hp], s.raise_faultTaken _⟩⟩

end Sys2Proof.Machine
end

section
/-! The six units (40_step_and_units.md R98 to R106): what each of them adds, by the control values of R100, and that their data
flow is the step of R92. -/

namespace Sys2Proof.Machine

/-- The outputs of a data flow are the next state of an answer and that state's report. -/
structure Performs (out : State × Report) (a : Answer) : Prop where
  next : a = .next out.1
  report : out.2 = out.1.report

/-! ## fetch_unit and instruction_decoder (R99, R100) -/

theorem fetchUnit_eq (s : State) : fetchUnit s.params.memWords s.mem s.pc = s.fetch := rfl

section Decoder
variable {w : Word} {policy : UnmappedPolicy}

theorem decoderFault_of_illegal (hk : kindOf w = .illegal) : decoderFault policy w = some (.illegalOpcode w) := by
  simp only [decoderFault, hk]

theorem decoderFault_of_unmapped_nop (hk : kindOf w = .unmapped) (hp : policy = .nop) : decoderFault policy w = none := by
  simp only [decoderFault, hk, hp]

theorem decoderFault_of_unmapped_fault (hk : kindOf w = .unmapped) (hp : policy = .fault) :
    decoderFault policy w = some (.illegalOpcode w) := by
  simp only [decoderFault, hk, hp]

theorem decoderFault_of_mapped (hu : kindOf w ≠ .unmapped) (hi : kindOf w ≠ .illegal) : decoderFault policy w = none := by
  unfold decoderFault
  split
  next hk => exact absurd hk hi
  next hk => exact absurd hk hu
  next => rfl
end Decoder

/-! ## load_store_unit (R104) -/

theorem loadStoreUnit_read (s : State) (a v : Word) :
    loadStoreUnit s.params.memWords s.mem .read a v = (s.memRead .dataRead a).map (s.mem, ·) := by
  unfold loadStoreUnit State.memRead
  cases checkAddress s.params.memWords a <;> rfl

theorem loadStoreUnit_write (s : State) (a v : Word) :
    loadStoreUnit s.params.memWords s.mem .write a v = (s.memWrite a v).map fun t => (t.mem, 0) := by
  unfold loadStoreUnit State.memWrite
  cases checkAddress s.params.memWords a <;> rfl

theorem exists_mem_of_memWrite {s t : State} {a v : Word} (h : s.memWrite a v = .ok t) :
    ∃ m, t = { s with mem := m } := by
  unfold State.memWrite at h
  split at h <;> cases h
  exact ⟨_, rfl⟩

/-! ## pc_sequencer (R105) -/

theorem sequenceStage_of_fault (s : State) (f : Fault) (k : Kind) (i12 i20 ne : Word) :
    Performs (sequenceStage s (pcSequencer s.pc s.faultRecord (some f) k i12 i20 ne)) (.next (s.raise f)) :=
  ⟨rfl, rfl⟩

theorem sequenceStage_of_running {t : State} {record : Option Fault} (hr : t.runState = .running)
    (hf : t.faultRecord = record) (p : Word) :
    Performs (sequenceStage t { pc := p, runState := .running, faultRecord := record, report := .progress })
      (.next (t.setPc p)) := by
  refine ⟨?_, rfl⟩
  rw [← hr, ← hf]
  rfl

theorem sequenceStage_of_writeReg {s : State} (hr : s.runState = .running) (r : RegIdx) (v p : Word) :
    Performs (sequenceStage (s.writeReg r v)
        { pc := p, runState := .running, faultRecord := s.faultRecord, report := .progress })
      (.next ((s.writeReg r v).setPc p)) :=
  sequenceStage_of_running (by rwa [State.writeReg_runState]) (State.writeReg_faultRecord ..) p

/-- A kind that neither halts nor moves the pc but by the advance. -/
structure Kind.FallsThrough (k : Kind) : Prop where
  ne_hlt : k ≠ .hlt
  ne_bne : k ≠ .bne
  ne_jal : k ≠ .jal

theorem Kind.FallsThrough.pcSequencer_eq {k : Kind} (h : k.FallsThrough) (pc : Word) (record : Option Fault)
    (i12 i20 ne : Word) : pcSequencer pc record none k i12 i20 ne =
      { pc := pc + 4, runState := .running, faultRecord := record, report := .progress } := by
  cases k
  case hlt => exact absurd rfl h.ne_hlt
  case bne => exact absurd rfl h.ne_bne
  case jal => exact absurd rfl h.ne_jal
  all_goals rfl

/-! ## The stages after the decoder, by the control values of the kind (R98, R100 to R105) -/

/-- What the alu gives a word of kind `k`. -/
def aluResult (k : Kind) (s : State) (w : Word) : Word :=
  aluStage (controls k) (s.x (fieldA w)) (s.x (fieldB w)) (s.x (fieldC w)) (sext12 (imm12Field w)) (sext20 (imm20Field w))

section Stages
variable {s : State} {w : Word}

theorem executeStages_of_hlt (hk : kindOf w = .hlt) : Performs (executeStages s w) (.next s.halt) := by
  rw [executeStages, hk]
  exact ⟨rfl, rfl⟩

variable (hr : s.runState = .running)
include hr

theorem executeStages_of_bne (hk : kindOf w = .bne) :
    Performs (executeStages s w) (execBne (fieldA w) (fieldC w) (imm12Field w) s) := by
  simp only [executeStages, hk, controls, aluStage, loadStoreUnit, registerWriteStage, pcSequencer, execBne]
  split <;> exact sequenceStage_of_running hr rfl _

theorem executeStages_of_jal (hk : kindOf w = .jal) :
    Performs (executeStages s w) (execJal (fieldC w) (imm20Field w) s) := by
  rw [executeStages, hk]
  exact sequenceStage_of_writeReg hr ..

variable {k : Kind} (hk : kindOf w = k) (hft : k.FallsThrough)
include hk hft

/-- A kind with no access and no register write. -/
theorem executeStages_of_nothing (hm : (controls k).memory = .none) (hw : (controls k).write = .none) :
    Performs (executeStages s w) (.next s.advance) := by
  simp only [executeStages, hk, hm, hw, hft.pcSequencer_eq]
  exact sequenceStage_of_running hr rfl _

theorem executeStages_of_result (hm : (controls k).memory = .none) (hw : (controls k).write = .result) :
    Performs (executeStages s w) (.next (s.writeBack (fieldC w) (aluResult k s w))) := by
  simp only [executeStages, hk, hm, hw, hft.pcSequencer_eq, State.writeBack_eq]
  exact sequenceStage_of_writeReg hr ..

theorem executeStages_of_load (hm : (controls k).memory = .read) (hw : (controls k).write = .rdata) :
    Performs (executeStages s w) (loadInto (fieldC w) (aluResult k s w) s) := by
  simp only [executeStages, hk, hm, hw, hft.pcSequencer_eq, loadStoreUnit_read, aluResult, loadInto, State.writeBack_eq]
  cases s.memRead .dataRead _ with
  | error f => exact sequenceStage_of_fault ..
  | ok v => exact sequenceStage_of_writeReg hr ..

theorem executeStages_of_store (hm : (controls k).memory = .write) (hw : (controls k).write = .none) :
    Performs (executeStages s w) (storeAt (aluResult k s w) (s.x (fieldC w)) s) := by
  simp only [executeStages, hk, hm, hw, hft.pcSequencer_eq, loadStoreUnit_write, aluResult, storeAt]
  cases hm : s.memWrite _ _ with
  | error f => exact sequenceStage_of_fault ..
  | ok t =>
    obtain ⟨m, rfl⟩ := exists_mem_of_memWrite hm
    exact sequenceStage_of_running (t := { s with mem := m }) hr rfl _
end Stages

/-! ## The step -/

/-- The stages of a word of the twelve instructions perform the one it decodes to. -/
theorem executeStages_of_mapped {s : State} {w : Word} {k : Kind} {i : Instr} (hr : s.runState = .running)
    (hk : kindOf w = k) (hd : DecodesAs w k i) (hu : k ≠ .unmapped) (hi : k ≠ .illegal) :
    Performs (executeStages s w) (exec i s) := by
  cases hd
  case hlt => exact executeStages_of_hlt hk
  case bne => exact executeStages_of_bne hr hk
  case jal => exact executeStages_of_jal hr hk
  case addi | slti | add | mlt | lui => exact (executeStages_of_result hr hk ⟨nofun, nofun, nofun⟩ rfl rfl :)
  case get | lw => exact (executeStages_of_load hr hk ⟨nofun, nofun, nofun⟩ rfl rfl :)
  case put | sw => exact (executeStages_of_store hr hk ⟨nofun, nofun, nofun⟩ rfl rfl :)
  case unmapped => exact absurd rfl hu
  case illegal => exact absurd rfl hi

theorem unitStep_of_fetch_error {s : State} {f : Fault} (hr : s.runState = .running) (hf : s.fetch = .error f) :
    Performs (unitStep s) (.next (s.raise f)) := by
  simp only [unitStep, hr, fetchUnit_eq, hf]
  exact sequenceStage_of_fault ..

theorem unitStep_of_decoderFault {s : State} {w : Word} {f : Fault} (hr : s.runState = .running) (hw : s.fetch = .ok w)
    (hf : decoderFault s.params.unmappedPolicy w = some f) : Performs (unitStep s) (.next (s.raise f)) := by
  simp only [unitStep, hr, fetchUnit_eq, hw, hf]
  exact sequenceStage_of_fault ..

theorem unitStep_eq_executeStages {s : State} {w : Word} (hr : s.runState = .running) (hw : s.fetch = .ok w)
    (hf : decoderFault s.params.unmappedPolicy w = none) : unitStep s = executeStages s w := by
  simp only [unitStep, hr, fetchUnit_eq, hw, hf]

/-- The decoder's fault is that of the illegal rows, and of the unmapped rows under the policy FAULT. -/
theorem unitStep_performs_exec {s : State} {w : Word} (hr : s.runState = .running) (hw : s.fetch = .ok w) :
    Performs (unitStep s) (exec (decode w) s) := by
  have hd := decode_decodesAs w
  by_cases hi : kindOf w = .illegal
  · obtain ⟨-, -, he⟩ := of_mem_illegalForms (hd.mem_illegalForms_iff.2 hi) s
    rw [he]
    exact unitStep_of_decoderFault hr hw (decoderFault_of_illegal hi)
  by_cases hu : kindOf w = .unmapped
  · obtain ⟨-, -, -, -, he⟩ := of_mem_unmappedForms (hd.mem_unmappedForms_iff.2 hu) s
    rw [he]
    rcases unmappedFunct_cases w s with ⟨hp, e⟩ | ⟨hp, e⟩ <;> rw [e]
    · rw [unitStep_eq_executeStages hr hw (decoderFault_of_unmapped_nop hu hp)]
      exact executeStages_of_nothing hr hu ⟨nofun, nofun, nofun⟩ rfl rfl
    · exact unitStep_of_decoderFault hr hw (decoderFault_of_unmapped_fault hu hp)
  rw [unitStep_eq_executeStages hr hw (decoderFault_of_mapped hu hi)]
  exact executeStages_of_mapped hr rfl hd hu hi

theorem unitStep_performs_step (s : State) : Performs (unitStep s) (step s) := by
  cases hr : s.runState with
  | running =>
    cases hf : s.fetch with
    | error f => rw [step_of_fetch_error hr hf]; exact unitStep_of_fetch_error hr hf
    | ok w =>
      have hstep : step s = exec (decode w) s := by simp only [step, hr, hf]
      rw [hstep]
      exact unitStep_performs_exec hr hf
  | halted | faulted =>
    have hs : s.runState ≠ .running := by simp [hr]
    rw [step_of_stopped hs]
    simp only [unitStep, hr]
    exact ⟨rfl, (State.report_of_stopped hs).symm⟩

/-- Settles O30: the units end where the step does, and their report is read off that state. -/
theorem unitsComposeToTheStep : Obligations.UnitsComposeToTheStep := by
  intro s
  obtain ⟨hnext, hreport⟩ := unitStep_performs_step s
  exact ⟨hnext, (stepReport_of_step hnext).trans hreport.symm⟩

end Sys2Proof.Machine
end

section
/-! What `hlt` does, and the step that fetches one of its words (41_halt.md R120). -/

namespace Sys2Proof.Machine

theorem exec_hlt (s : State) : exec .hlt s = .next s.halt := rfl

theorem step_of_fetches_hlt {s : State} (hs : s.CanFetch) (hw : decode s.fetchedWord = .hlt) : step s = .next s.halt := by
  rw [step_of_canFetch hs, hw, exec_hlt]

theorem State.report_halt (s : State) : s.halt.report = .noProgress :=
  State.report_of_stopped (by simp)

/-- Settles O8: a word with the opcode of `hlt` decodes to it, so the step that fetches one ends in the halted state, and the report
is read off that state. -/
theorem hltStopsTheMachineAndChangesNothingElse : Obligations.HltStopsTheMachineAndChangesNothingElse := by
  refine ⟨rfl, fun w => (decode_eq_hlt_iff w).2, exec_hlt, fun s hs hw => ?_⟩
  have hstep : step s = .next s.halt := step_of_fetches_hlt hs ((decode_eq_hlt_iff _).2 hw)
  exact ⟨hstep, (stepReport_of_step hstep).trans s.report_halt⟩

end Sys2Proof.Machine
end

section
/-! What a load and a store do on every address, once for `put`, `get`, `sw` and `lw`, and the two legacy instructions
(42_legacy_put_get.md R125, R126). -/

namespace Sys2Proof.Machine

/-! ## What the ends of a completed access change -/

theorem OnlyMemory.advance {s t : State} {a v : Word} (h : OnlyMemory s t a v) : OnlyMemory s t.advance a v :=
  { h with }

theorem OnlyRegister.of_writeBack (s : State) (rd : RegIdx) (v : Word) : OnlyRegister s (s.writeBack rd v) rd v where
  written := fun h => by rw [State.writeBack_x, State.writeReg_x_self s rd v h]
  zero := by rw [State.writeBack_x, State.writeReg_x_zero]
  others := fun r hr => by rw [State.writeBack_x, State.writeReg_x_other s rd v r hr]
  mem := s.writeBack_mem rd v
  runState := s.writeBack_runState rd v
  faultRecord := s.writeBack_faultRecord rd v
  params := s.writeBack_params rd v

/-! ## A store and a load -/

section Accesses
variable {s : State} {a : Word}

theorem storeAt_completes (h : s.Accessible a) (v : Word) :
    ∃ t, storeAt a v s = .next t ∧ t.pc = s.pc + 4 ∧ OnlyMemory s t a v := by
  rw [storeAt_eq, accessFault_eq_none_iff.2 h]
  exact ⟨_, rfl, rfl, (OnlyMemory.of_write s a v).advance⟩

theorem storeAt_takes_fault {f : Fault} (h : accessFault s .dataWrite a = some f) (v : Word) :
    ∃ t, storeAt a v s = .next t ∧ FaultTaken s t f := by
  rw [storeAt_eq, h]
  exact ⟨_, rfl, s.raise_faultTaken f⟩

theorem loadInto_completes (h : s.Accessible a) (rd : RegIdx) :
    ∃ t, loadInto rd a s = .next t ∧ t.pc = s.pc + 4 ∧ OnlyRegister s t rd (s.mem.read (wordIndex a)) := by
  rw [loadInto_eq, accessFault_eq_none_iff.2 h]
  exact ⟨_, rfl, State.writeBack_pc .., .of_writeBack ..⟩

theorem loadInto_takes_fault {f : Fault} (h : accessFault s .dataRead a = some f) (rd : RegIdx) :
    ∃ t, loadInto rd a s = .next t ∧ FaultTaken s t f := by
  rw [loadInto_eq, h]
  exact ⟨_, rfl, s.raise_faultTaken f⟩
end Accesses

/-! ## `put` and `get` -/

theorem decode_of_put {w : Word} (h : opcodeField w = Opcode.put.bits) :
    decode w = .put (fieldC w) (fieldA w) (fieldB w) := by
  rw [decode, (Opcode.ofBits_eq_some_iff _ _).2 h]

theorem decode_of_get {w : Word} (h : opcodeField w = Opcode.get.bits) :
    decode w = .get (fieldC w) (fieldA w) (fieldB w) := by
  rw [decode, (Opcode.ofBits_eq_some_iff _ _).2 h]

theorem exec_put (value base offset : RegIdx) (s : State) :
    exec (.put value base offset) s = storeAt (s.x base + s.x offset) (s.x value) s := rfl

theorem exec_get (value base offset : RegIdx) (s : State) :
    exec (.get value base offset) s = loadInto value (s.x base + s.x offset) s := rfl

/-- Settles O9: `put` is a store of x[value]; the address alone decides whether it completes and which fault it takes. -/
theorem putStoresAtRegisterPlusRegister : Obligations.PutStoresAtRegisterPlusRegister := by
  refine ⟨fun w => decode_of_put, fun value base offset s => ?_⟩
  rw [exec_put]
  exact ⟨fun ha => storeAt_completes ha _,
    fun h0 => storeAt_takes_fault (accessFault_of_misaligned h0 _) _,
    fun h0 h1 => storeAt_takes_fault (accessFault_of_outOfRange h0 h1 _) _⟩

/-- Settles O10: `get` is a load into x[value], whichever register that is, with the cases of the address that `put` has. -/
theorem getLoadsFromRegisterPlusRegister : Obligations.GetLoadsFromRegisterPlusRegister := by
  refine ⟨fun w => decode_of_get, fun value base offset s => ?_⟩
  rw [exec_get]
  exact ⟨fun ha => loadInto_completes ha _,
    fun h0 => loadInto_takes_fault (accessFault_of_misaligned h0 _) _,
    fun h0 h1 => loadInto_takes_fault (accessFault_of_outOfRange h0 h1 _) _⟩

end Sys2Proof.Machine
end

section
/-! The two instructions with an immediate operand: a sum and a signed comparison, as integers (43_immediate_ops.md R130, R131). -/

namespace Sys2Proof.Machine

/-! ## The words of IMM -/

section ImmWords
variable {w : Word} (ho : opcodeField w = Opcode.imm.bits)
include ho

theorem decode_of_imm : decode w = decodeImm w := by
  rw [decode, (Opcode.ofBits_eq_some_iff _ _).2 ho]

theorem decode_of_addi (hf : functField w = 0) : decode w = .addi (fieldC w) (fieldA w) (imm12Field w) := by
  rw [decode_of_imm ho, decodeImm, hf]
  rfl

theorem decode_of_slti (hf : functField w = 2) : decode w = .slti (fieldC w) (fieldA w) (imm12Field w) := by
  rw [decode_of_imm ho, decodeImm, hf]
  rfl
end ImmWords

/-! ## The results -/

/-- The alu adds bits, and sext_12 keeps the integer, so the result is the wrapped sum of the integers (R102, R130). -/
theorem alu_add_sext12 (p : Word) (imm : BitVec 12) :
    alu .add p (sext12 imm) = BitVec.ofInt 32 (p.toInt + imm.toInt) := by
  rw [BitVec.ofInt_add, BitVec.ofInt_toInt, ← sext12_toInt, BitVec.ofInt_toInt]
  rfl

theorem alu_slt_sext12 (p : Word) (imm : BitVec 12) :
    alu .slt p (sext12 imm) = if p.toInt < imm.toInt then 1 else 0 := by
  rw [alu, sltValue, sext12_toInt]

/-! ## `addi` and `slti` -/

theorem exec_addi (rd rs1 : RegIdx) (imm : BitVec 12) (s : State) :
    exec (.addi rd rs1 imm) s = .next (s.writeBack rd (BitVec.ofInt 32 ((s.x rs1).toInt + imm.toInt))) := by
  rw [← alu_add_sext12]
  rfl

theorem exec_slti (rd rs1 : RegIdx) (imm : BitVec 12) (s : State) :
    exec (.slti rd rs1 imm) s = .next (s.writeBack rd (if (s.x rs1).toInt < imm.toInt then 1 else 0)) := by
  rw [← alu_slt_sext12]
  rfl

/-- An instruction that ends in a write back advances the pc and changes nothing else but its destination. -/
theorem completes_of_writeBack {i : Instr} {s : State} {rd : RegIdx} {v : Word}
    (h : exec i s = .next (s.writeBack rd v)) :
    ∃ t, exec i s = .next t ∧ t.pc = s.pc + 4 ∧ OnlyRegister s t rd v :=
  ⟨_, h, State.writeBack_pc .., .of_writeBack ..⟩

/-- Settles O11: `addi` writes back the alu's sum, which is the 32-bit wrap of the integer sum. -/
theorem addiAddsTheSignExtendedImmediate : Obligations.AddiAddsTheSignExtendedImmediate :=
  ⟨fun _ => decode_of_addi, fun rd rs1 imm s => completes_of_writeBack (exec_addi rd rs1 imm s)⟩

/-- Settles O12: `slti` writes back the alu's SLT, where the extended immediate is the same integer as the immediate. -/
theorem sltiComparesSigned : Obligations.SltiComparesSigned :=
  ⟨fun _ => decode_of_slti, fun rd rs1 imm s => completes_of_writeBack (exec_slti rd rs1 imm s)⟩

end Sys2Proof.Machine
end

section
/-! The two instructions with two register operands: a sum and a product, as naturals modulo 2^32 (44_register_ops.md R140, R141). -/

namespace Sys2Proof.Machine

/-! ## The words of OP under funct 0 and of MLT -/

theorem decode_of_op {w : Word} (ho : opcodeField w = Opcode.op.bits) : decode w = decodeOp w := by
  rw [decode, (Opcode.ofBits_eq_some_iff _ _).2 ho]

theorem decode_of_add {w : Word} (ho : opcodeField w = Opcode.op.bits) (hf : functField w = 0) :
    decode w = .add (fieldC w) (fieldA w) (fieldB w) := by
  rw [decode_of_op ho, decodeOp, hf]
  rfl

theorem decode_of_mlt {w : Word} (ho : opcodeField w = Opcode.mlt.bits) :
    decode w = .mlt (fieldC w) (fieldA w) (fieldB w) := by
  rw [decode, (Opcode.ofBits_eq_some_iff _ _).2 ho]

/-! ## The results -/

/-- The alu's sum of bits is the unsigned sum modulo 2^32 (R102, R140). -/
theorem alu_add_eq_ofNat (p q : Word) : alu .add p q = BitVec.ofNat 32 (p.toNat + q.toNat) := by
  rw [BitVec.ofNat_add, BitVec.ofNat_toNat, BitVec.ofNat_toNat, BitVec.setWidth_eq, BitVec.setWidth_eq]
  rfl

/-- The alu's product of bits is the unsigned product modulo 2^32, of which the high word is lost (R102, R141). -/
theorem alu_mul_eq_ofNat (p q : Word) : alu .mul p q = BitVec.ofNat 32 (p.toNat * q.toNat) := by
  rw [BitVec.ofNat_mul, BitVec.ofNat_toNat, BitVec.ofNat_toNat, BitVec.setWidth_eq, BitVec.setWidth_eq]
  rfl

/-! ## `add` and `mlt` -/

theorem exec_add (rd rs1 rs2 : RegIdx) (s : State) :
    exec (.add rd rs1 rs2) s = .next (s.writeBack rd (BitVec.ofNat 32 ((s.x rs1).toNat + (s.x rs2).toNat))) := by
  rw [← alu_add_eq_ofNat]
  rfl

theorem exec_mlt (rd rs1 rs2 : RegIdx) (s : State) :
    exec (.mlt rd rs1 rs2) s = .next (s.writeBack rd (BitVec.ofNat 32 ((s.x rs1).toNat * (s.x rs2).toNat))) := by
  rw [← alu_mul_eq_ofNat]
  rfl

/-- Settles O13: `add` writes back the alu's sum, which is the unsigned sum modulo 2^32. -/
theorem addAddsTwoRegisters : Obligations.AddAddsTwoRegisters :=
  ⟨fun _ => decode_of_add, fun rd rs1 rs2 s => completes_of_writeBack (exec_add rd rs1 rs2 s)⟩

/-- Settles O14: `mlt` writes back the alu's product, which is the unsigned product modulo 2^32; no funct is read. -/
theorem mltKeepsTheLowWordOfTheProduct : Obligations.MltKeepsTheLowWordOfTheProduct :=
  ⟨fun _ => decode_of_mlt, fun rd rs1 rs2 s => completes_of_writeBack (exec_mlt rd rs1 rs2 s)⟩

end Sys2Proof.Machine
end

section
/-! The branch: a taken `bne` adds its immediate to the pc before the advance, an untaken one adds nothing (45_branch.md R150). -/

namespace Sys2Proof.Machine

/-! ## The words of BRANCH under funct 1 -/

theorem decode_of_branch {w : Word} (ho : opcodeField w = Opcode.branch.bits) : decode w = decodeBranch w := by
  rw [decode, (Opcode.ofBits_eq_some_iff _ _).2 ho]

theorem decode_of_bne {w : Word} (ho : opcodeField w = Opcode.branch.bits) (hf : functField w = 1) :
    decode w = .bne (fieldA w) (fieldC w) (imm12Field w) := by
  rw [decode_of_branch ho, decodeBranch, hf]
  rfl

/-! ## `bne` taken and not taken -/

theorem OnlyPc.of_setPc (s : State) (p : Word) : OnlyPc s (s.setPc p) where
  regs := s.setPc_x p
  mem := rfl
  runState := rfl
  faultRecord := rfl
  params := rfl

theorem exec_bne_untaken {rs1 rs2 : RegIdx} {s : State} (h : s.x rs1 = s.x rs2) (imm : BitVec 12) :
    exec (.bne rs1 rs2 imm) s = .next (s.setPc (s.pc + 4)) := by
  rw [exec_bne, pcBeforeAdvance, if_neg (not_not_intro h)]
  rfl

/-- Settles O15: whether the two registers are equal decides between two next states, each the old one with another pc. -/
theorem bneMovesThePcWhenRegistersDiffer : Obligations.BneMovesThePcWhenRegistersDiffer := by
  refine ⟨fun _ => decode_of_bne, fun rs1 rs2 imm s => ?_⟩
  by_cases hx : s.x rs1 = s.x rs2
  · exact ⟨_, exec_bne_untaken hx imm, .of_setPc .., fun hne => absurd hx hne, fun _ => rfl⟩
  · exact ⟨_, exec_bne_taken hx imm, .of_setPc .., fun _ => rfl, fun heq => absurd heq hx⟩

end Sys2Proof.Machine
end

section
/-! The jump: `jal` writes its link to the destination and adds its immediate to the pc before the advance (46_jump_and_link.md
R155). -/

namespace Sys2Proof.Machine

theorem decode_of_jal {w : Word} (ho : opcodeField w = Opcode.jal.bits) :
    decode w = .jal (fieldC w) (imm20Field w) := by
  rw [decode, (Opcode.ofBits_eq_some_iff _ _).2 ho]

/-- Where the pc is moved to is no matter of the frame. -/
theorem OnlyRegister.setPc {s t : State} {rd : RegIdx} {v : Word} (h : OnlyRegister s t rd v) (p : Word) :
    OnlyRegister s (t.setPc p) rd v :=
  { h with }

theorem OnlyRegister.of_writeReg_setPc (s : State) (rd : RegIdx) (v p : Word) :
    OnlyRegister s ((s.writeReg rd v).setPc p) rd v :=
  (OnlyRegister.of_writeBack s rd v).setPc p

/-- Settles O16: `jal` writes the link and sets the pc, for every LINK_INC; the link value is read off the destination. -/
theorem jalLinksAndJumps : Obligations.JalLinksAndJumps := by
  refine ⟨fun _ => decode_of_jal, fun rd imm s => ?_⟩
  have frame := OnlyRegister.of_writeReg_setPc s rd (s.pc + s.params.linkInc) (s.pc + imm.signExtend 32 + 4)
  refine ⟨_, exec_jal rd imm s, rfl, frame, fun hinc hrd => ?_⟩
  rw [frame.written hrd, hinc]

end Sys2Proof.Machine
end

section
/-! Load upper immediate (47_load_upper_immediate.md R160), and the constants it builds with `addi` (its corner case 6). -/

namespace Sys2Proof.Machine

theorem decode_of_lui {w : Word} (ho : opcodeField w = Opcode.lui.bits) :
    decode w = .lui (fieldC w) (imm20Field w) := by
  rw [decode, (Opcode.ofBits_eq_some_iff _ _).2 ho]

/-! ## The result -/

/-- The low bits of a sign-extended field are the field. -/
theorem setWidth_signExtend {n : Nat} (hn : n ≤ 32) (imm : BitVec n) : (imm.signExtend 32).setWidth n = imm := by
  ext j hj
  rw [BitVec.getElem_setWidth, BitVec.getLsbD_signExtend, if_pos hj, BitVec.getLsbD_eq_getElem hj,
    decide_eq_true (hj.trans_le hn), Bool.true_and]

/-- The product by 4096 is a shift that pushes the copies of the sign bit out, so the sign does not matter (R102, D28). -/
theorem alu_shl12_sext20 (imm : BitVec 20) (q : Word) : alu .shl12 (sext20 imm) q = imm ++ 0#12 := by
  have hshift : alu .shl12 (sext20 imm) q = sext20 imm <<< 12 := BitVec.mul_twoPow_eq_shiftLeft _ 12
  have hlow : (sext20 imm).extractLsb' 0 20 = imm := by
    rw [← BitVec.setWidth_eq_extractLsb' (by decide)]
    exact setWidth_signExtend (by decide) imm
  rw [hshift, BitVec.shiftLeft_eq_concat_of_lt (by decide), hlow]
  rfl

theorem exec_lui (rd : RegIdx) (imm : BitVec 20) (s : State) :
    exec (.lui rd imm) s = .next (s.writeBack rd (imm ++ 0#12)) := by
  rw [← alu_shl12_sext20 imm 0]
  rfl

/-- Settles O17: `lui` writes back the alu's SHL12 of the extended immediate, which drops the extension. -/
theorem luiPutsTheImmediateInTheUpperBits : Obligations.LuiPutsTheImmediateInTheUpperBits :=
  ⟨fun _ => decode_of_lui, fun rd imm s => completes_of_writeBack (exec_lui rd imm s)⟩

/-! ## A constant from `lui` and `addi` -/

section Constant
variable (k : Word)

/-- Taking its signed low part off a constant clears the low twelve bits. -/
theorem extractLsb'_sub_lowPart : (k - (k.extractLsb' 0 12).signExtend 32).extractLsb' 0 12 = 0#12 := by
  rw [← BitVec.setWidth_eq_extractLsb' (by decide), BitVec.sub_eq_add_neg, BitVec.setWidth_add _ _ (by decide),
    BitVec.setWidth_neg_of_le (by decide), setWidth_signExtend (by decide), BitVec.setWidth_eq_extractLsb' (by decide),
    BitVec.add_right_neg]

/-- So what is left of it stands in the upper twenty bits. -/
theorem upperPart_append_zero :
    ((k - (k.extractLsb' 0 12).signExtend 32) >>> 12).setWidth 20 ++ 0#12 = k - (k.extractLsb' 0 12).signExtend 32 := by
  rw [BitVec.setWidth_ushiftRight_eq_extractLsb, ← extractLsb'_sub_lowPart k]
  exact BitVec.extractLsb'_append_extractLsb' (w := 20)
end Constant

/-- Settles O34: `lui` leaves the constant without its signed low part, and `addi` adds that part. -/
theorem luiThenAddiBuildsAnyConstant : Obligations.LuiThenAddiBuildsAnyConstant := by
  intro k rd s hrd
  refine ⟨_, _, exec_lui rd _ s, exec_addi rd rd _ _, ?_, ?_⟩
  · rw [(OnlyRegister.of_writeBack ..).written hrd, (OnlyRegister.of_writeBack ..).written hrd, upperPart_append_zero,
      ← alu_add_sext12]
    exact BitVec.sub_add_cancel ..
  · rw [State.writeBack_pc, State.writeBack_pc, BitVec.add_assoc]
    rfl

end Sys2Proof.Machine
end

section
/-! Load word and store word: the load and the store of every address, at x[rs1] + sext_12(imm12) (48_load_store.md R165, R166). -/

namespace Sys2Proof.Machine

theorem decode_of_lw {w : Word} (ho : opcodeField w = Opcode.load.bits) :
    decode w = .lw (fieldC w) (fieldA w) (imm12Field w) := by
  rw [decode, (Opcode.ofBits_eq_some_iff _ _).2 ho]

theorem decode_of_sw {w : Word} (ho : opcodeField w = Opcode.store.bits) :
    decode w = .sw (fieldA w) (fieldC w) (imm12Field w) := by
  rw [decode, (Opcode.ofBits_eq_some_iff _ _).2 ho]

theorem exec_lw (rd rs1 : RegIdx) (imm : BitVec 12) (s : State) :
    exec (.lw rd rs1 imm) s = loadInto rd (s.x rs1 + imm.signExtend 32) s := rfl

theorem exec_sw (rs1 rs2 : RegIdx) (imm : BitVec 12) (s : State) :
    exec (.sw rs1 rs2 imm) s = storeAt (s.x rs1 + imm.signExtend 32) (s.x rs2) s := rfl

/-- Settles O18: `lw` is a load into x[rd], whichever register that is; its address decides whether it completes. -/
theorem lwLoadsTheAddressedWord : Obligations.LwLoadsTheAddressedWord := by
  refine ⟨fun w => decode_of_lw, fun rd rs1 imm s => ?_⟩
  rw [exec_lw]
  exact ⟨fun ha => loadInto_completes ha _,
    fun h0 => loadInto_takes_fault (accessFault_of_misaligned h0 _) _,
    fun h0 h1 => loadInto_takes_fault (accessFault_of_outOfRange h0 h1 _) _⟩

/-- Settles O19: `sw` is a store of x[rs2]; its address decides whether it completes. -/
theorem swStoresTheAddressedWord : Obligations.SwStoresTheAddressedWord := by
  refine ⟨fun w => decode_of_sw, fun rs1 rs2 imm s => ?_⟩
  rw [exec_sw]
  exact ⟨fun ha => storeAt_completes ha _,
    fun h0 => storeAt_takes_fault (accessFault_of_misaligned h0 _) _,
    fun h0 h1 => storeAt_takes_fault (accessFault_of_outOfRange h0 h1 _) _⟩

end Sys2Proof.Machine
end

section
/-! A step of a RUNNING machine that faults: its end (60_exceptions.md R186), and that it is the table of R182, in the order of R190,
that decides whether it faults and how. -/

namespace Sys2Proof.Machine

/-! ## The end of a faulting step -/

/-- Of the ends of a step of a RUNNING machine only a fault's entry is FAULTED. -/
theorem eq_raise_of_step_faulted {s t : State} (hr : s.runState = .running) (h : step s = .next t)
    (ht : t.runState = .faulted) : ∃ f, t = s.raise f := by
  rcases step_cases_of_running hr h with ⟨-, f, rfl⟩ | ⟨-, he⟩
  · exact ⟨f, rfl⟩
  · rcases exec_cases he with ⟨-, rfl⟩ | ⟨-, f, -, rfl⟩ | ⟨-, -, rfl⟩
    · cases ht
    · exact ⟨f, rfl⟩
    · rw [State.completed_runState, hr] at ht
      cases ht

/-- Settles O41: the step ends in the fault's entry; that state is stopped, so it is reported so and runs to itself. -/
theorem faultEntryChangesNothingElse : Obligations.FaultEntryChangesNothingElse := by
  intro s t hr h ht
  have hstop : t.runState ≠ .running := by simp [ht]
  obtain ⟨f, rfl⟩ := eq_raise_of_step_faulted hr h ht
  exact ⟨⟨f, s.raise_faultTaken f⟩, (stepReport_of_step h).trans (State.report_of_stopped hstop),
    fun n => (run_succ_of_step h n).trans (run_of_stopped hstop n)⟩

/-! ## The table of R182 -/

theorem memRead_eq (s : State) (kind : AccessKind) (a : Word) :
    s.memRead kind a = (accessFault s kind a).elim (.ok (s.mem.read (wordIndex a))) .error := by
  rcases memRead_cases s kind a with ⟨h0, h1, e⟩ | ⟨h0, e⟩ | ⟨h0, h1, e⟩
  · rw [e, accessFault_eq_none_iff.2 ⟨h0, h1⟩, Option.elim_none]
  · rw [e, accessFault_of_misaligned h0, Option.elim_some]
  · rw [e, accessFault_of_outOfRange h0 h1, Option.elim_some]

theorem memRead_of_accessFault {s : State} {kind : AccessKind} {a : Word} {f : Fault}
    (h : accessFault s kind a = some f) : s.memRead kind a = .error f := by
  rw [memRead_eq, h, Option.elim_some]

/-- The twelve instructions are on no row of the illegal and the unmapped ones. -/
theorem DecodesAs.not_mem_forms {w : Word} {k : Kind} {i : Instr} (h : DecodesAs w k i) (hi : k ≠ .illegal)
    (hu : k ≠ .unmapped) (v : Word) : i ∉ illegalForms v ∧ i ∉ unmappedForms v := by
  cases h with
  | unmapped h => exact absurd rfl hu
  | illegal h => exact absurd rfl hi
  | _ => simp [illegalForms, unmappedForms]

/-- Once a word is fetched, the table's order, opcode before data access, makes no difference: no word has both faults. -/
theorem stepFault_of_accessible {s : State} (h : s.Accessible s.pc) :
    stepFault s = execFault s (decode s.fetchedWord) := by
  have hd := decode_decodesAs s.fetchedWord
  have hop := decode_mem_illegalForms_iff s.fetchedWord
  rw [opcodeField] at hop
  simp only [stepFault, accessFault_eq_none_iff.2 h, ← hop]
  by_cases hi : decode s.fetchedWord ∈ illegalForms s.fetchedWord
  · obtain ⟨hw, ha, -⟩ := of_mem_illegalForms hi s
    simp [execFault, hw, ha, hi]
  by_cases hu : decode s.fetchedWord ∈ unmappedForms s.fetchedWord
  · obtain ⟨hw, -, ha, -⟩ := of_mem_unmappedForms hu s
    simp [execFault, hw, ha, hu, hi]
  have hno := hd.not_mem_forms (mt hd.mem_illegalForms_iff.2 hi) (mt hd.mem_unmappedForms_iff.2 hu)
  cases ha : dataAccessOf s (decode s.fetchedWord) with
  | none => simp [execFault, ha, hno]
  | some access => simp [execFault, ha, hno]

theorem stepFault_of_fetchFault {s : State} {f : Fault} (h : accessFault s .fetch s.pc = some f) :
    stepFault s = some f := by
  rw [stepFault, h]

/-- A step takes the fault of the table, or else ends in a machine that has not faulted and has the record it had. -/
theorem step_of_stepFault {s : State} (hr : s.runState = .running) :
    (∃ f, stepFault s = some f ∧ step s = .next (s.raise f)) ∨
    (stepFault s = none ∧ ∃ t, step s = .next t ∧ t.runState ≠ .faulted ∧ t.faultRecord = s.faultRecord) := by
  cases hpc : accessFault s .fetch s.pc with
  | some f => exact .inl ⟨f, stepFault_of_fetchFault hpc, step_of_fetch_error hr (memRead_of_accessFault hpc)⟩
  | none =>
    have ha := accessFault_eq_none_iff.1 hpc
    obtain ⟨t, he⟩ := exec_answers (decode s.fetchedWord) s
    rw [stepFault_of_accessible ha, step_of_canFetch ⟨hr, ha⟩]
    rcases exec_cases he with ⟨hi, rfl⟩ | ⟨-, f, hf, rfl⟩ | ⟨-, hf, rfl⟩
    · exact .inr ⟨by rw [hi]; rfl, _, he, by simp, rfl⟩
    · exact .inl ⟨f, hf, he⟩
    · exact .inr ⟨hf, _, he, by simp [hr], s.completed_faultRecord _⟩

/-- Settles O42: of the two ends of a step the table picks one; the codes are those of its rows. -/
theorem faultsAreExactlyThoseOfTheTable : Obligations.FaultsAreExactlyThoseOfTheTable := by
  refine ⟨fun s t hr h => ?_, fun _ _ => rfl, fun _ _ => rfl, fun _ => rfl⟩
  rcases step_of_stepFault hr with ⟨f, hf, hstep⟩ | ⟨hf, u, hstep, hrun, hrec⟩
  · cases h.symm.trans hstep
    rw [hf]
    exact ⟨fun | _, rfl => s.raise_faultTaken f, nofun⟩
  · cases h.symm.trans hstep
    rw [hf]
    exact ⟨nofun, fun _ => ⟨hrun, hrec⟩⟩

end Sys2Proof.Machine
end

section
/-! The host's load (70_reset_and_hazards.md R203, R204). -/

namespace Sys2Proof.Machine

theorem loadAccepted_iff (memWords : Nat) (offset : Word) (words : List Word) :
    loadAccepted memWords offset words = true ↔
      offset.extractLsb' 0 2 = 0 ∧ wordIndex offset + words.length ≤ memWords := by
  simp [loadAccepted]

theorem load_eq (offset : Word) (words : List Word) (s : State) :
    load offset words s =
      if offset.extractLsb' 0 2 = 0 ∧ wordIndex offset + words.length ≤ s.params.memWords then
        some { s with mem := s.mem.writeList (wordIndex offset) words }
      else none := by
  simp only [load, loadAccepted_iff]

theorem load_eq_some {offset : Word} {words : List Word} {s t : State} (h : load offset words s = some t) :
    wordIndex offset + words.length ≤ s.params.memWords ∧
      t = { s with mem := s.mem.writeList (wordIndex offset) words } := by
  rw [load_eq] at h
  obtain ⟨⟨-, hfit⟩, ht⟩ := Option.ite_none_right_eq_some.1 h
  exact ⟨hfit, (Option.some.inj ht).symm⟩

section WriteList
variable (m : Memory) (k : Nat) (words : List Word)

theorem Memory.read_writeList_inside (i : Nat) (h : i < words.length) : (m.writeList k words).read (k + i) = words[i] := by
  rw [Memory.read_writeList, if_pos (by omega), Nat.add_sub_cancel_left, List.getD_eq_getElem _ _ h]

theorem Memory.read_writeList_outside (j : Nat) (h : j < k ∨ k + words.length ≤ j) :
    (m.writeList k words).read j = m.read j := by
  rw [Memory.read_writeList, if_neg (by omega)]
end WriteList

/-- Settles O47: a load is one sequence of writes to memory, or nothing. -/
theorem loadWritesItsWordsAndNothingElse : Obligations.LoadWritesItsWordsAndNothingElse := by
  refine fun offset words s => ⟨by simp [load_eq], fun t h => ?_⟩
  obtain ⟨-, rfl⟩ := load_eq_some h
  exact ⟨s.mem.read_writeList_inside _ _, s.mem.read_writeList_outside _ _, s.withMem_x _, rfl, rfl, rfl⟩

theorem State.Inv.writeList {s : State} (h : s.Inv) {k : Nat} {words : List Word}
    (hfit : k + words.length ≤ s.params.memWords) : ({ s with mem := s.mem.writeList k words } : State).Inv where
  memCanonical := Memory.wf_writeList h.memCanonical k words
  memInRange := fun p hp => (Memory.mem_writeList s.mem k words p hp).elim (fun hk => hk.trans_le hfit) (h.memInRange p)
  x0Zero := h.x0Zero
  paramsLegal := h.paramsLegal
  recordIffFaulted := h.recordIffFaulted

/-- Settles O48: the words of an accepted load fit, and writing keeps the list canonical. -/
theorem loadKeepsTheInvariant : Obligations.LoadKeepsTheInvariant := by
  intro offset words s t hs h
  obtain ⟨hfit, rfl⟩ := load_eq_some h
  exact hs.writeList hfit

/-- Settles O52: the loaded machine is stopped like the one before it, and a stopped machine runs to itself. -/
theorem loadDoesNotRestartAStoppedMachine : Obligations.LoadDoesNotRestartAStoppedMachine := by
  intro offset words s t n hs h
  have hr : t.runState = s.runState := by rw [(load_eq_some h).2]
  exact ⟨run_of_stopped (hr ▸ hs) n, hr⟩

end Sys2Proof.Machine
end
